-- ==== Sys2Proof/Word.lean ====
section
/-! DEFINITION. The two word types of the hardware (00_scope.md R5): bytes and bus addresses. -/

namespace Sys2Proof

/-- A byte: the width of A, X, Y, S, P and of every memory cell (00_scope.md R5). -/
abbrev Byte := BitVec 8

/-- A bus address, and the program counter: 16 bits (00_scope.md R5). -/
abbrev Addr := BitVec 16

end Sys2Proof
end

