-- ==== Sys2Proof/Syntax.lean ====
section
/-! DEFINITION. The instructions: one constructor per row of spec/opcode_table.json, 103 in all
(30_encoding.md R65). The name is the mnemonic followed by the mode tag of R63; IMP and REL rows and
JMP have one mode only and carry no tag. -/

namespace Sys2Proof

/-- An instruction with its operand bytes already assembled (30_encoding.md R62): `nn` is the one
operand byte, `addr` and `target` the little-endian operand word, `offset` a branch's unsigned offset. -/
inductive Instr where
  -- ADC, R100
  | adcImm (nn : Byte)
  | adcZp (nn : Byte)
  | adcZpx (nn : Byte)
  | adcAbs (addr : Addr)
  | adcAbsx (addr : Addr)
  | adcAbsy (addr : Addr)
  -- SBC, R101
  | sbcImm (nn : Byte)
  | sbcZp (nn : Byte)
  | sbcZpx (nn : Byte)
  | sbcAbs (addr : Addr)
  | sbcAbsx (addr : Addr)
  | sbcAbsy (addr : Addr)
  -- AND, R110
  | andImm (nn : Byte)
  | andZp (nn : Byte)
  | andZpx (nn : Byte)
  | andAbs (addr : Addr)
  | andAbsx (addr : Addr)
  | andAbsy (addr : Addr)
  -- ORA, R111
  | oraImm (nn : Byte)
  | oraZp (nn : Byte)
  | oraZpx (nn : Byte)
  | oraAbs (addr : Addr)
  | oraAbsx (addr : Addr)
  | oraAbsy (addr : Addr)
  -- EOR, R112
  | eorImm (nn : Byte)
  | eorZp (nn : Byte)
  | eorZpx (nn : Byte)
  | eorAbs (addr : Addr)
  | eorAbsx (addr : Addr)
  | eorAbsy (addr : Addr)
  -- ASL, R113
  | aslAcc
  | aslZp (nn : Byte)
  | aslZpx (nn : Byte)
  | aslAbs (addr : Addr)
  | aslAbsx (addr : Addr)
  -- LSR, R114
  | lsrAcc
  | lsrZp (nn : Byte)
  | lsrZpx (nn : Byte)
  | lsrAbs (addr : Addr)
  | lsrAbsx (addr : Addr)
  -- ROL, R115
  | rolAcc
  | rolZp (nn : Byte)
  | rolZpx (nn : Byte)
  | rolAbs (addr : Addr)
  | rolAbsx (addr : Addr)
  -- ROR, R116
  | rorAcc
  | rorZp (nn : Byte)
  | rorZpx (nn : Byte)
  | rorAbs (addr : Addr)
  | rorAbsx (addr : Addr)
  -- CMP, R120
  | cmpImm (nn : Byte)
  | cmpZp (nn : Byte)
  | cmpZpx (nn : Byte)
  | cmpAbs (addr : Addr)
  | cmpAbsx (addr : Addr)
  | cmpAbsy (addr : Addr)
  -- CPX, R121
  | cpxImm (nn : Byte)
  | cpxZp (nn : Byte)
  | cpxAbs (addr : Addr)
  -- CPY, R122
  | cpyImm (nn : Byte)
  | cpyZp (nn : Byte)
  | cpyAbs (addr : Addr)
  -- LDA, R130
  | ldaImm (nn : Byte)
  | ldaZp (nn : Byte)
  | ldaZpx (nn : Byte)
  | ldaAbs (addr : Addr)
  | ldaAbsx (addr : Addr)
  | ldaAbsy (addr : Addr)
  -- LDX, R131
  | ldxImm (nn : Byte)
  | ldxZp (nn : Byte)
  | ldxZpy (nn : Byte)
  | ldxAbs (addr : Addr)
  | ldxAbsy (addr : Addr)
  -- LDY, R132
  | ldyImm (nn : Byte)
  | ldyZp (nn : Byte)
  | ldyZpx (nn : Byte)
  | ldyAbs (addr : Addr)
  | ldyAbsx (addr : Addr)
  -- STA, R133
  | staZp (nn : Byte)
  | staZpx (nn : Byte)
  | staAbs (addr : Addr)
  | staAbsx (addr : Addr)
  | staAbsy (addr : Addr)
  -- STX, R134
  | stxZp (nn : Byte)
  | stxZpy (nn : Byte)
  | stxAbs (addr : Addr)
  -- STY, R135
  | styZp (nn : Byte)
  | styZpx (nn : Byte)
  | styAbs (addr : Addr)
  -- NOP, R149
  | nop
  -- BPL, R141
  | bpl (offset : Byte)
  -- BMI, R142
  | bmi (offset : Byte)
  -- BVC, R143
  | bvc (offset : Byte)
  -- BVS, R144
  | bvs (offset : Byte)
  -- BCC, R145
  | bcc (offset : Byte)
  -- BCS, R146
  | bcs (offset : Byte)
  -- BNE, R147
  | bne (offset : Byte)
  -- BEQ, R148
  | beq (offset : Byte)
  -- JMP, R150
  | jmp (target : Addr)
  -- INX, R160
  | inx
  -- INY, R161
  | iny
  -- DEX, R162
  | dex
  -- DEY, R163
  | dey
  deriving DecidableEq, Repr

end Sys2Proof
end

