-- ==== Sys2Proof/WellFormed.lean ====
section
/-! DEFINITION. Well-formedness. Every value of an operand byte is legal in every legal instruction
(30_encoding.md R68), and the constructors of `Instr` carry operands of exactly the right width, so the
one check left is R65's: the operation and the addressing mode must be a pair the opcode table has. -/

namespace Sys2Proof

/-- The 32 mnemonics (30_encoding.md R65). -/
inductive Mnemonic where
  | adc | sbc | and | ora | eor | asl | lsr | rol
  | ror | cmp | cpx | cpy | lda | ldx | ldy | sta
  | stx | sty | nop | bpl | bmi | bvc | bvs | bcc
  | bcs | bne | beq | jmp | inx | iny | dex | dey
  deriving DecidableEq, Repr

/-- The ten addressing-mode tags (30_encoding.md R63). -/
inductive Mode where
  | imp | acc | imm | rel | zp | zpx | zpy | abs | absx | absy
  deriving DecidableEq, Repr

/-- Operand bytes a mode consumes after the opcode (30_encoding.md R60, R63). -/
def Mode.operandWidth : Mode → Nat
  | .imp | .acc => 0
  | .imm | .rel | .zp | .zpx | .zpy => 1
  | .abs | .absx | .absy => 2

/-- The modes each mnemonic has a row for: the columns of the table in 30_encoding.md R65. -/
def Mnemonic.modes : Mnemonic → List Mode
  | .adc | .sbc | .and | .ora | .eor | .cmp | .lda => [.imm, .zp, .zpx, .abs, .absx, .absy]
  | .asl | .lsr | .rol | .ror => [.acc, .zp, .zpx, .abs, .absx]
  | .cpx | .cpy => [.imm, .zp, .abs]
  | .ldx => [.imm, .zp, .zpy, .abs, .absy]
  | .ldy => [.imm, .zp, .zpx, .abs, .absx]
  | .sta => [.zp, .zpx, .abs, .absx, .absy]
  | .stx => [.zp, .zpy, .abs]
  | .sty => [.zp, .zpx, .abs]
  | .nop | .inx | .iny | .dex | .dey => [.imp]
  | .bpl | .bmi | .bvc | .bvs | .bcc | .bcs | .bne | .beq => [.rel]
  | .jmp => [.abs]

/-- What an instruction is before its operand: the `(operation, mode)` pair of 30_encoding.md R64. -/
structure Form where
  mnemonic : Mnemonic
  mode : Mode
  deriving DecidableEq, Repr

/-- R65: the pair is one the opcode table has. -/
def Form.wellFormed (f : Form) : Bool := f.mnemonic.modes.contains f.mode

/-- The pair a constructor stands for. -/
def Instr.form : Instr → Form
  | .adcImm _ => ⟨.adc, .imm⟩
  | .adcZp _ => ⟨.adc, .zp⟩
  | .adcZpx _ => ⟨.adc, .zpx⟩
  | .adcAbs _ => ⟨.adc, .abs⟩
  | .adcAbsx _ => ⟨.adc, .absx⟩
  | .adcAbsy _ => ⟨.adc, .absy⟩
  | .sbcImm _ => ⟨.sbc, .imm⟩
  | .sbcZp _ => ⟨.sbc, .zp⟩
  | .sbcZpx _ => ⟨.sbc, .zpx⟩
  | .sbcAbs _ => ⟨.sbc, .abs⟩
  | .sbcAbsx _ => ⟨.sbc, .absx⟩
  | .sbcAbsy _ => ⟨.sbc, .absy⟩
  | .andImm _ => ⟨.and, .imm⟩
  | .andZp _ => ⟨.and, .zp⟩
  | .andZpx _ => ⟨.and, .zpx⟩
  | .andAbs _ => ⟨.and, .abs⟩
  | .andAbsx _ => ⟨.and, .absx⟩
  | .andAbsy _ => ⟨.and, .absy⟩
  | .oraImm _ => ⟨.ora, .imm⟩
  | .oraZp _ => ⟨.ora, .zp⟩
  | .oraZpx _ => ⟨.ora, .zpx⟩
  | .oraAbs _ => ⟨.ora, .abs⟩
  | .oraAbsx _ => ⟨.ora, .absx⟩
  | .oraAbsy _ => ⟨.ora, .absy⟩
  | .eorImm _ => ⟨.eor, .imm⟩
  | .eorZp _ => ⟨.eor, .zp⟩
  | .eorZpx _ => ⟨.eor, .zpx⟩
  | .eorAbs _ => ⟨.eor, .abs⟩
  | .eorAbsx _ => ⟨.eor, .absx⟩
  | .eorAbsy _ => ⟨.eor, .absy⟩
  | .aslAcc => ⟨.asl, .acc⟩
  | .aslZp _ => ⟨.asl, .zp⟩
  | .aslZpx _ => ⟨.asl, .zpx⟩
  | .aslAbs _ => ⟨.asl, .abs⟩
  | .aslAbsx _ => ⟨.asl, .absx⟩
  | .lsrAcc => ⟨.lsr, .acc⟩
  | .lsrZp _ => ⟨.lsr, .zp⟩
  | .lsrZpx _ => ⟨.lsr, .zpx⟩
  | .lsrAbs _ => ⟨.lsr, .abs⟩
  | .lsrAbsx _ => ⟨.lsr, .absx⟩
  | .rolAcc => ⟨.rol, .acc⟩
  | .rolZp _ => ⟨.rol, .zp⟩
  | .rolZpx _ => ⟨.rol, .zpx⟩
  | .rolAbs _ => ⟨.rol, .abs⟩
  | .rolAbsx _ => ⟨.rol, .absx⟩
  | .rorAcc => ⟨.ror, .acc⟩
  | .rorZp _ => ⟨.ror, .zp⟩
  | .rorZpx _ => ⟨.ror, .zpx⟩
  | .rorAbs _ => ⟨.ror, .abs⟩
  | .rorAbsx _ => ⟨.ror, .absx⟩
  | .cmpImm _ => ⟨.cmp, .imm⟩
  | .cmpZp _ => ⟨.cmp, .zp⟩
  | .cmpZpx _ => ⟨.cmp, .zpx⟩
  | .cmpAbs _ => ⟨.cmp, .abs⟩
  | .cmpAbsx _ => ⟨.cmp, .absx⟩
  | .cmpAbsy _ => ⟨.cmp, .absy⟩
  | .cpxImm _ => ⟨.cpx, .imm⟩
  | .cpxZp _ => ⟨.cpx, .zp⟩
  | .cpxAbs _ => ⟨.cpx, .abs⟩
  | .cpyImm _ => ⟨.cpy, .imm⟩
  | .cpyZp _ => ⟨.cpy, .zp⟩
  | .cpyAbs _ => ⟨.cpy, .abs⟩
  | .ldaImm _ => ⟨.lda, .imm⟩
  | .ldaZp _ => ⟨.lda, .zp⟩
  | .ldaZpx _ => ⟨.lda, .zpx⟩
  | .ldaAbs _ => ⟨.lda, .abs⟩
  | .ldaAbsx _ => ⟨.lda, .absx⟩
  | .ldaAbsy _ => ⟨.lda, .absy⟩
  | .ldxImm _ => ⟨.ldx, .imm⟩
  | .ldxZp _ => ⟨.ldx, .zp⟩
  | .ldxZpy _ => ⟨.ldx, .zpy⟩
  | .ldxAbs _ => ⟨.ldx, .abs⟩
  | .ldxAbsy _ => ⟨.ldx, .absy⟩
  | .ldyImm _ => ⟨.ldy, .imm⟩
  | .ldyZp _ => ⟨.ldy, .zp⟩
  | .ldyZpx _ => ⟨.ldy, .zpx⟩
  | .ldyAbs _ => ⟨.ldy, .abs⟩
  | .ldyAbsx _ => ⟨.ldy, .absx⟩
  | .staZp _ => ⟨.sta, .zp⟩
  | .staZpx _ => ⟨.sta, .zpx⟩
  | .staAbs _ => ⟨.sta, .abs⟩
  | .staAbsx _ => ⟨.sta, .absx⟩
  | .staAbsy _ => ⟨.sta, .absy⟩
  | .stxZp _ => ⟨.stx, .zp⟩
  | .stxZpy _ => ⟨.stx, .zpy⟩
  | .stxAbs _ => ⟨.stx, .abs⟩
  | .styZp _ => ⟨.sty, .zp⟩
  | .styZpx _ => ⟨.sty, .zpx⟩
  | .styAbs _ => ⟨.sty, .abs⟩
  | .nop => ⟨.nop, .imp⟩
  | .bpl _ => ⟨.bpl, .rel⟩
  | .bmi _ => ⟨.bmi, .rel⟩
  | .bvc _ => ⟨.bvc, .rel⟩
  | .bvs _ => ⟨.bvs, .rel⟩
  | .bcc _ => ⟨.bcc, .rel⟩
  | .bcs _ => ⟨.bcs, .rel⟩
  | .bne _ => ⟨.bne, .rel⟩
  | .beq _ => ⟨.beq, .rel⟩
  | .jmp _ => ⟨.jmp, .abs⟩
  | .inx => ⟨.inx, .imp⟩
  | .iny => ⟨.iny, .imp⟩
  | .dex => ⟨.dex, .imp⟩
  | .dey => ⟨.dey, .imp⟩

/-- The operation of an instruction. -/
def Instr.mnemonic (i : Instr) : Mnemonic := i.form.mnemonic

/-- The addressing mode of an instruction. -/
def Instr.mode (i : Instr) : Mode := i.form.mode

/-- The check on an instruction: its pair is in the table. -/
def Instr.wellFormed (i : Instr) : Bool := i.form.wellFormed

/-- The length in bytes, from the mode alone (30_encoding.md R61). -/
def Instr.length (i : Instr) : Nat := 1 + i.mode.operandWidth

end Sys2Proof
end

