-- ==== Sys2Proof/Decode.lean ====
section
/-! DEFINITION. The decoder (30_encoding.md R60 to R68) and the encoder. The decoder's rows are those of
spec/opcode_table.json, the encoder's opcodes those of the table by mnemonic in R65. -/

namespace Sys2Proof

/-- The word `hi, lo` of two bytes, the low byte first in memory (30_encoding.md R62, 20_memory.md R40). -/
def joinBytes (lo hi : Byte) : Addr := hi ++ lo

/-- Bits 7..0 of a word. -/
def loByte (w : Addr) : Byte := w.extractLsb' 0 8

/-- Bits 15..8 of a word. -/
def hiByte (w : Addr) : Byte := w.extractLsb' 8 8

/-- An entry of the opcode table, by the number of operand bytes its mode consumes (30_encoding.md R60). -/
inductive Entry where
  | bare (i : Instr)
  | byte (make : Byte → Instr)
  | word (make : Addr → Instr)

/-- A row of the opcode table: `match` is the whole first byte, `mask` is 0xFF in every row (R64). -/
structure Row where
  opcode : Byte
  entry : Entry

/-- Rows of ADC, SBC. -/
def rowsArith : List Row :=
  [ ⟨0x69, .byte .adcImm⟩, ⟨0x65, .byte .adcZp⟩, ⟨0x75, .byte .adcZpx⟩,
    ⟨0x6D, .word .adcAbs⟩, ⟨0x7D, .word .adcAbsx⟩, ⟨0x79, .word .adcAbsy⟩,
    ⟨0xE9, .byte .sbcImm⟩, ⟨0xE5, .byte .sbcZp⟩, ⟨0xF5, .byte .sbcZpx⟩,
    ⟨0xED, .word .sbcAbs⟩, ⟨0xFD, .word .sbcAbsx⟩, ⟨0xF9, .word .sbcAbsy⟩ ]

/-- Rows of AND, ORA, EOR. -/
def rowsLogic : List Row :=
  [ ⟨0x29, .byte .andImm⟩, ⟨0x25, .byte .andZp⟩, ⟨0x35, .byte .andZpx⟩,
    ⟨0x2D, .word .andAbs⟩, ⟨0x3D, .word .andAbsx⟩, ⟨0x39, .word .andAbsy⟩,
    ⟨0x09, .byte .oraImm⟩, ⟨0x05, .byte .oraZp⟩, ⟨0x15, .byte .oraZpx⟩,
    ⟨0x0D, .word .oraAbs⟩, ⟨0x1D, .word .oraAbsx⟩, ⟨0x19, .word .oraAbsy⟩,
    ⟨0x49, .byte .eorImm⟩, ⟨0x45, .byte .eorZp⟩, ⟨0x55, .byte .eorZpx⟩,
    ⟨0x4D, .word .eorAbs⟩, ⟨0x5D, .word .eorAbsx⟩, ⟨0x59, .word .eorAbsy⟩ ]

/-- Rows of ASL, LSR, ROL, ROR. -/
def rowsShift : List Row :=
  [ ⟨0x0A, .bare .aslAcc⟩, ⟨0x06, .byte .aslZp⟩, ⟨0x16, .byte .aslZpx⟩,
    ⟨0x0E, .word .aslAbs⟩, ⟨0x1E, .word .aslAbsx⟩,
    ⟨0x4A, .bare .lsrAcc⟩, ⟨0x46, .byte .lsrZp⟩, ⟨0x56, .byte .lsrZpx⟩,
    ⟨0x4E, .word .lsrAbs⟩, ⟨0x5E, .word .lsrAbsx⟩,
    ⟨0x2A, .bare .rolAcc⟩, ⟨0x26, .byte .rolZp⟩, ⟨0x36, .byte .rolZpx⟩,
    ⟨0x2E, .word .rolAbs⟩, ⟨0x3E, .word .rolAbsx⟩,
    ⟨0x6A, .bare .rorAcc⟩, ⟨0x66, .byte .rorZp⟩, ⟨0x76, .byte .rorZpx⟩,
    ⟨0x6E, .word .rorAbs⟩, ⟨0x7E, .word .rorAbsx⟩ ]

/-- Rows of CMP, CPX, CPY. -/
def rowsCompare : List Row :=
  [ ⟨0xC9, .byte .cmpImm⟩, ⟨0xC5, .byte .cmpZp⟩, ⟨0xD5, .byte .cmpZpx⟩,
    ⟨0xCD, .word .cmpAbs⟩, ⟨0xDD, .word .cmpAbsx⟩, ⟨0xD9, .word .cmpAbsy⟩,
    ⟨0xE0, .byte .cpxImm⟩, ⟨0xE4, .byte .cpxZp⟩, ⟨0xEC, .word .cpxAbs⟩,
    ⟨0xC0, .byte .cpyImm⟩, ⟨0xC4, .byte .cpyZp⟩, ⟨0xCC, .word .cpyAbs⟩ ]

/-- Rows of LDA, LDX, LDY, STA, STX, STY. -/
def rowsLoadStore : List Row :=
  [ ⟨0xA9, .byte .ldaImm⟩, ⟨0xA5, .byte .ldaZp⟩, ⟨0xB5, .byte .ldaZpx⟩,
    ⟨0xAD, .word .ldaAbs⟩, ⟨0xBD, .word .ldaAbsx⟩, ⟨0xB9, .word .ldaAbsy⟩,
    ⟨0xA2, .byte .ldxImm⟩, ⟨0xA6, .byte .ldxZp⟩, ⟨0xB6, .byte .ldxZpy⟩,
    ⟨0xAE, .word .ldxAbs⟩, ⟨0xBE, .word .ldxAbsy⟩,
    ⟨0xA0, .byte .ldyImm⟩, ⟨0xA4, .byte .ldyZp⟩, ⟨0xB4, .byte .ldyZpx⟩,
    ⟨0xAC, .word .ldyAbs⟩, ⟨0xBC, .word .ldyAbsx⟩,
    ⟨0x85, .byte .staZp⟩, ⟨0x95, .byte .staZpx⟩, ⟨0x8D, .word .staAbs⟩,
    ⟨0x9D, .word .staAbsx⟩, ⟨0x99, .word .staAbsy⟩,
    ⟨0x86, .byte .stxZp⟩, ⟨0x96, .byte .stxZpy⟩, ⟨0x8E, .word .stxAbs⟩,
    ⟨0x84, .byte .styZp⟩, ⟨0x94, .byte .styZpx⟩, ⟨0x8C, .word .styAbs⟩ ]

/-- Rows of NOP, BPL, BMI, BVC, BVS, BCC, BCS, BNE, BEQ, JMP. -/
def rowsControl : List Row :=
  [ ⟨0xEA, .bare .nop⟩,
    ⟨0x10, .byte .bpl⟩,
    ⟨0x30, .byte .bmi⟩,
    ⟨0x50, .byte .bvc⟩,
    ⟨0x70, .byte .bvs⟩,
    ⟨0x90, .byte .bcc⟩,
    ⟨0xB0, .byte .bcs⟩,
    ⟨0xD0, .byte .bne⟩,
    ⟨0xF0, .byte .beq⟩,
    ⟨0x4C, .word .jmp⟩ ]

/-- Rows of INX, INY, DEX, DEY. -/
def rowsIncDec : List Row :=
  [ ⟨0xE8, .bare .inx⟩,
    ⟨0xC8, .bare .iny⟩,
    ⟨0xCA, .bare .dex⟩,
    ⟨0x88, .bare .dey⟩ ]

/-- The opcode table: 103 rows; a byte with no row is illegal (30_encoding.md R64 to R66). -/
def opcodeTable : List Row :=
  rowsArith ++ rowsLogic ++ rowsShift ++ rowsCompare ++ rowsLoadStore ++ rowsControl ++ rowsIncDec

/-- The table's entry for an opcode byte, none where the byte is illegal (30_encoding.md R64, R66). -/
def lookup (op : Byte) : Option Entry := (opcodeTable.find? (fun r => r.opcode == op)).map Row.entry

/-- Why bytes are not an instruction. -/
inductive DecodeError where
  /-- The first byte has no row in the table (30_encoding.md R66). -/
  | illegalOpcode (op : Byte)
  /-- The bytes end before the instruction does; the machine's own fetch never meets this. -/
  | truncated
  deriving DecidableEq, Repr

/-- Decode the instruction at the head of a byte sequence, with the bytes after it (30_encoding.md R60, R61).
An illegal opcode is rejected before any operand byte is looked at. -/
def decode : List Byte → Except DecodeError (Instr × List Byte)
  | [] => .error .truncated
  | op :: rest =>
    match lookup op with
    | none => .error (.illegalOpcode op)
    | some (.bare i) => .ok (i, rest)
    | some (.byte make) =>
      match rest with
      | nn :: rest => .ok (make nn, rest)
      | [] => .error .truncated
    | some (.word make) =>
      match rest with
      | ll :: hh :: rest => .ok (make (joinBytes ll hh), rest)
      | _ => .error .truncated

/-- The first three bytes of an instruction numbered as spec/opcode_table.json numbers bits, bits from
`nbits` up being 0. -/
def tableBytes (nbits w : Nat) : List Byte :=
  let v := w % 2 ^ nbits
  [BitVec.ofNat 8 v, BitVec.ofNat 8 (v >>> 8), BitVec.ofNat 8 (v >>> 16)]

/-- The instruction the decoder reads from a table word. -/
def decodeTableWord (nbits w : Nat) : Option Instr :=
  match decode (tableBytes nbits w) with
  | .ok (i, _) => some i
  | .error _ => none

/-- A two-byte instruction, format F2 of 30_encoding.md R60. -/
def encodeByte (op nn : Byte) : List Byte := [op, nn]

/-- A three-byte instruction, format F3 of 30_encoding.md R60: address low byte first. -/
def encodeWord (op : Byte) (addr : Addr) : List Byte := [op, loByte addr, hiByte addr]

/-- The bytes of an instruction at increasing addresses (30_encoding.md R60, R65). -/
def encode : Instr → List Byte
  | .adcImm nn => encodeByte 0x69 nn
  | .adcZp nn => encodeByte 0x65 nn
  | .adcZpx nn => encodeByte 0x75 nn
  | .adcAbs addr => encodeWord 0x6D addr
  | .adcAbsx addr => encodeWord 0x7D addr
  | .adcAbsy addr => encodeWord 0x79 addr
  | .sbcImm nn => encodeByte 0xE9 nn
  | .sbcZp nn => encodeByte 0xE5 nn
  | .sbcZpx nn => encodeByte 0xF5 nn
  | .sbcAbs addr => encodeWord 0xED addr
  | .sbcAbsx addr => encodeWord 0xFD addr
  | .sbcAbsy addr => encodeWord 0xF9 addr
  | .andImm nn => encodeByte 0x29 nn
  | .andZp nn => encodeByte 0x25 nn
  | .andZpx nn => encodeByte 0x35 nn
  | .andAbs addr => encodeWord 0x2D addr
  | .andAbsx addr => encodeWord 0x3D addr
  | .andAbsy addr => encodeWord 0x39 addr
  | .oraImm nn => encodeByte 0x09 nn
  | .oraZp nn => encodeByte 0x05 nn
  | .oraZpx nn => encodeByte 0x15 nn
  | .oraAbs addr => encodeWord 0x0D addr
  | .oraAbsx addr => encodeWord 0x1D addr
  | .oraAbsy addr => encodeWord 0x19 addr
  | .eorImm nn => encodeByte 0x49 nn
  | .eorZp nn => encodeByte 0x45 nn
  | .eorZpx nn => encodeByte 0x55 nn
  | .eorAbs addr => encodeWord 0x4D addr
  | .eorAbsx addr => encodeWord 0x5D addr
  | .eorAbsy addr => encodeWord 0x59 addr
  | .aslAcc => [0x0A]
  | .aslZp nn => encodeByte 0x06 nn
  | .aslZpx nn => encodeByte 0x16 nn
  | .aslAbs addr => encodeWord 0x0E addr
  | .aslAbsx addr => encodeWord 0x1E addr
  | .lsrAcc => [0x4A]
  | .lsrZp nn => encodeByte 0x46 nn
  | .lsrZpx nn => encodeByte 0x56 nn
  | .lsrAbs addr => encodeWord 0x4E addr
  | .lsrAbsx addr => encodeWord 0x5E addr
  | .rolAcc => [0x2A]
  | .rolZp nn => encodeByte 0x26 nn
  | .rolZpx nn => encodeByte 0x36 nn
  | .rolAbs addr => encodeWord 0x2E addr
  | .rolAbsx addr => encodeWord 0x3E addr
  | .rorAcc => [0x6A]
  | .rorZp nn => encodeByte 0x66 nn
  | .rorZpx nn => encodeByte 0x76 nn
  | .rorAbs addr => encodeWord 0x6E addr
  | .rorAbsx addr => encodeWord 0x7E addr
  | .cmpImm nn => encodeByte 0xC9 nn
  | .cmpZp nn => encodeByte 0xC5 nn
  | .cmpZpx nn => encodeByte 0xD5 nn
  | .cmpAbs addr => encodeWord 0xCD addr
  | .cmpAbsx addr => encodeWord 0xDD addr
  | .cmpAbsy addr => encodeWord 0xD9 addr
  | .cpxImm nn => encodeByte 0xE0 nn
  | .cpxZp nn => encodeByte 0xE4 nn
  | .cpxAbs addr => encodeWord 0xEC addr
  | .cpyImm nn => encodeByte 0xC0 nn
  | .cpyZp nn => encodeByte 0xC4 nn
  | .cpyAbs addr => encodeWord 0xCC addr
  | .ldaImm nn => encodeByte 0xA9 nn
  | .ldaZp nn => encodeByte 0xA5 nn
  | .ldaZpx nn => encodeByte 0xB5 nn
  | .ldaAbs addr => encodeWord 0xAD addr
  | .ldaAbsx addr => encodeWord 0xBD addr
  | .ldaAbsy addr => encodeWord 0xB9 addr
  | .ldxImm nn => encodeByte 0xA2 nn
  | .ldxZp nn => encodeByte 0xA6 nn
  | .ldxZpy nn => encodeByte 0xB6 nn
  | .ldxAbs addr => encodeWord 0xAE addr
  | .ldxAbsy addr => encodeWord 0xBE addr
  | .ldyImm nn => encodeByte 0xA0 nn
  | .ldyZp nn => encodeByte 0xA4 nn
  | .ldyZpx nn => encodeByte 0xB4 nn
  | .ldyAbs addr => encodeWord 0xAC addr
  | .ldyAbsx addr => encodeWord 0xBC addr
  | .staZp nn => encodeByte 0x85 nn
  | .staZpx nn => encodeByte 0x95 nn
  | .staAbs addr => encodeWord 0x8D addr
  | .staAbsx addr => encodeWord 0x9D addr
  | .staAbsy addr => encodeWord 0x99 addr
  | .stxZp nn => encodeByte 0x86 nn
  | .stxZpy nn => encodeByte 0x96 nn
  | .stxAbs addr => encodeWord 0x8E addr
  | .styZp nn => encodeByte 0x84 nn
  | .styZpx nn => encodeByte 0x94 nn
  | .styAbs addr => encodeWord 0x8C addr
  | .nop => [0xEA]
  | .bpl offset => encodeByte 0x10 offset
  | .bmi offset => encodeByte 0x30 offset
  | .bvc offset => encodeByte 0x50 offset
  | .bvs offset => encodeByte 0x70 offset
  | .bcc offset => encodeByte 0x90 offset
  | .bcs offset => encodeByte 0xB0 offset
  | .bne offset => encodeByte 0xD0 offset
  | .beq offset => encodeByte 0xF0 offset
  | .jmp target => encodeWord 0x4C target
  | .inx => [0xE8]
  | .iny => [0xC8]
  | .dex => [0xCA]
  | .dey => [0x88]

end Sys2Proof
end

