-- ==== Sys2Proof/Config.lean ====
section
/-! DEFINITION. The fixed parameters of the hardware (00_scope.md R5) and its one free value. -/

namespace Sys2Proof

/-- RAM size in bytes (00_scope.md R5). -/
def Config.ramSize : Nat := 2048

/-- PRG bank size in bytes (00_scope.md R5). -/
def Config.prgBankSize : Nat := 16384

/-- CHR bank size in bytes (00_scope.md R5). -/
def Config.chrBankSize : Nat := 8192

/-- Cartridge header size in bytes (00_scope.md R5). -/
def Config.headerSize : Nat := 16

/-- Trainer size in bytes (00_scope.md R5). -/
def Config.trainerSize : Nat := 512

/-- The magic a cartridge image starts with (20_memory.md R50). -/
def Config.magic : Vector Byte 4 := #v[0x4E, 0x45, 0x53, 0x1A]

/-- The address of the reset vector, the only fixed pointer of the map (20_memory.md R43). -/
def Config.resetVector : Addr := 0xFFFC

/-- The default of the parameter `RAM_INIT`: 2048 bytes of 0x00 (00_scope.md R6, 92_eei_decisions.md D13;
log entry 2). -/
def Config.ramInit : Vector Byte 2048 := Vector.replicate 2048 0x00

/-- FREE VALUE (log entry 3): what the PRG window would read under a header whose PRG bank count is
neither 1 nor 2. No launch constructs such a machine (70_reset_and_hazards.md R190) and the spec gives
it no mapping (91_not_in_source.md N10); nothing in Lean can evaluate this constant. -/
opaque Config.unmappedPrg : (banks : Byte) → (addr : Addr) → Byte

end Sys2Proof
end

