-- ==== Sys2Proof/Machine/State.lean ====
section
/-! DEFINITION. The complete state of the machine (10_state.md R10), as plain data, and the state right
after reset. -/

namespace Sys2Proof.Machine

/-- A memory as plain data: (index, byte) pairs, indexes strictly rising, no byte equal to what an
unlisted index reads as (`Memory.unlisted` and `Memory.wf` in Machine/Ops.lean). -/
abbrev Memory := List Host.Cell

/-- The 16-byte cartridge header (20_memory.md R50). Only `magic`, the two bank counts and bit 2 of
`flags6` are interpreted; the rest is kept (R53). -/
structure Header where
  magic : Vector Byte 4
  prgBanks : Byte
  chrBanks : Byte
  flags6 : Byte
  flags7 : Byte
  prgRamSize : Byte
  flags9 : Byte
  flags10 : Byte
  reserved : Vector Byte 5
  deriving DecidableEq, Repr

/-- The immutable cartridge (10_state.md R21). `prg` is indexed from 0 to `prgBanks * 16384 - 1` and
`chr` from 0 to `chrBanks * 8192 - 1`. -/
structure Cartridge where
  header : Header
  prg : Memory
  chr : Memory
  deriving DecidableEq, Repr

/-- The two errors a step can raise, by name (60_exceptions.md R170, R173). -/
inductive ErrorKind where
  /-- The byte at PC has no row in the opcode table (60_exceptions.md R171). -/
  | illegalOpcode
  /-- A store through a load-only mode; no byte sequence reaches it (60_exceptions.md R172). -/
  | invalidAddressingMode
  deriving DecidableEq, Repr

/-- The error record (60_exceptions.md R173): its kind, the address of the opcode byte, that byte. -/
structure ErrorRecord where
  kind : ErrorKind
  addr : Addr
  opcode : Byte
  deriving DecidableEq, Repr

/-- The complete state (10_state.md R10). -/
structure State where
  /-- A, the accumulator (R11). -/
  a : Byte
  /-- X, an index register (R12). -/
  x : Byte
  /-- Y, an index register (R13). -/
  y : Byte
  /-- S, the stack pointer, which no instruction reads or writes (R14). -/
  sp : Byte
  /-- P, the flags register (R15); its bits are named in Machine/Flags.lean. -/
  p : Byte
  /-- PC, between steps the address of the next opcode byte (R18). -/
  pc : Addr
  /-- HALT: none, or the record of the error that stopped the machine for good (R19). -/
  halt : Option ErrorRecord
  /-- RAM, indexed from 0x000 to 0x7FF (R20). -/
  ram : Memory
  /-- The cartridge (R21). -/
  cart : Cartridge
  deriving DecidableEq, Repr

/-- Faults: there is none. Both errors of `step()` have the effect the spec gives them, a next state
whose HALT holds the record (60_exceptions.md R174, R175; log entry 4), and every access is total
(20_memory.md R37), so nothing in this machine ends in an outcome without a state. Safe. -/
inductive Fault where
  deriving DecidableEq, Repr

/-- Refusals. -/
inductive Refusal where
  /-- Raised by an arm of `exec` whose instruction has no meaning yet; no arm raises it. Safe. -/
  | notModelled (mnemonic : String)
  deriving DecidableEq, Repr

/-- The outcome of a step or of an instruction's meaning. -/
abbrev Result := Host.Outcome State Fault Refusal

/-- The header of the smallest image `new` accepts: one PRG bank, no CHR, no trainer (log entry 1). -/
def Header.blank : Header :=
  { magic := Config.magic, prgBanks := 1, chrBanks := 0, flags6 := 0, flags7 := 0, prgRamSize := 0,
    flags9 := 0, flags10 := 0, reserved := #v[0, 0, 0, 0, 0] }

/-- The cartridge with that header and 16384 PRG bytes of 0x00 (log entry 1). -/
def Cartridge.blank : Cartridge := { header := Header.blank, prg := [], chr := [] }

/-- The machine after `new` on the blank image and then `reset()` (10_state.md R23): the registers and
flags zeroed, HALT none, RAM the default `RAM_INIT` (log entry 2), PC the word at 0xFFFC, which in
the blank image is 0x0000 (log entry 1). -/
def State.reset : State :=
  { a := 0x00, x := 0x00, y := 0x00, sp := 0x00, p := 0x00, pc := 0x0000, halt := none, ram := [],
    cart := Cartridge.blank }

end Sys2Proof.Machine
end

