-- ==== Sys2Proof/Machine/Ops.lean ====
section
/-! DEFINITION. The named operations over memory and registers: canonical memories, the bus
(20_memory.md), the register writes, the fetch primitives (40_addressing.md R80, R81), and the effect of
a failing step (60_exceptions.md R174). There is no return from an error (60_exceptions.md R178). -/

namespace Sys2Proof.Machine

/-- What an index that a memory does not list reads as: the default byte of `RAM_INIT`
(92_eei_decisions.md D13, log entry 2), and the byte the cell lists of PRG and CHR leave out (log
entry 5). -/
def Memory.unlisted : Byte := 0x00

/-- Read the byte at an index. -/
def Memory.read : Memory → Nat → Byte
  | [], _ => Memory.unlisted
  | (k, v) :: m, i => if i = k then v else Memory.read m i

/-- A cell in front of a memory, left out where it holds what an unlisted index reads as. -/
def Memory.cons (i : Nat) (v : Byte) (m : Memory) : Memory :=
  if v = Memory.unlisted then m else (i, v) :: m

/-- Put a cell in its place by index, in a memory that does not list that index. -/
def Memory.insert : Memory → Nat → Byte → Memory
  | [], i, v => Memory.cons i v []
  | (k, w) :: m, i, v =>
    if i < k then Memory.cons i v ((k, w) :: m) else (k, w) :: Memory.insert m i v

/-- Write the byte at an index: what was listed there goes, then the new cell takes its place. It keeps
the canonical form, and a read after it is right in any memory. -/
def Memory.write (m : Memory) (i : Nat) (v : Byte) : Memory :=
  Memory.insert (m.filter (fun cell => cell.1 ≠ i)) i v

/-- The memory that holds a byte sequence from index `start` on. -/
def Memory.ofBytes : (start : Nat) → List Byte → Memory
  | _, [] => []
  | start, b :: bs => Memory.cons start b (Memory.ofBytes (start + 1) bs)

/-- The canonical form, for indexes from `least` on: strictly rising, no unlisted byte listed. -/
def Memory.wfFrom : (least : Nat) → Memory → Bool
  | _, [] => true
  | least, (k, v) :: m => decide (least ≤ k) && decide (v ≠ Memory.unlisted) && Memory.wfFrom (k + 1) m

/-- The canonical form: equal memories are equal lists. -/
def Memory.wf (m : Memory) : Bool := Memory.wfFrom 0 m

/-- Every listed index lies below a size. -/
def Memory.below (size : Nat) (m : Memory) : Bool := m.all (fun cell => decide (cell.1 < size))

/-- A byte as a 16-bit word with bits 15..8 zero (00_scope.md R7). -/
def zext16 (b : Byte) : Addr := b.setWidth 16

/-- The regions of the bus (20_memory.md R30). -/
inductive Region where
  | ram | stubA | stubB | expansionStub | sramStub | prg
  deriving DecidableEq, Repr

/-- The region of an address: the ordered table of 20_memory.md R30. -/
def region (addr : Addr) : Region :=
  if addr ≤ 0x1FFF then .ram
  else if addr ≤ 0x3FFF then .stubA
  else if addr ≤ 0x401F then .stubB
  else if addr ≤ 0x5FFF then .expansionStub
  else if addr ≤ 0x7FFF then .sramStub
  else .prg

/-- The RAM index an address of the RAM region names (20_memory.md R31, R34). -/
def ramIndex (addr : Addr) : Nat := (addr &&& 0x07FF).toNat

/-- The PRG byte an address of the PRG window names (20_memory.md R35): one bank mirrored, two banks
linear; none under any other bank count, which `new` refuses. -/
def prgIndex (cart : Cartridge) (addr : Addr) : Option Nat :=
  if cart.header.prgBanks = 1 then some ((addr - 0x8000) &&& 0x3FFF).toNat
  else if cart.header.prgBanks = 2 then some (addr - 0x8000).toNat
  else none

/-- Read through the PRG window (20_memory.md R35). -/
def prgRead (cart : Cartridge) (addr : Addr) : Byte :=
  match prgIndex cart addr with
  | some i => cart.prg.read i
  | none => Config.unmappedPrg cart.header.prgBanks addr

/-- `loadb` (20_memory.md R31): a read of the bus, which changes nothing. -/
def loadb (s : State) (addr : Addr) : Byte :=
  match region addr with
  | .ram => s.ram.read (ramIndex addr)
  | .stubA | .stubB | .expansionStub | .sramStub => 0x00
  | .prg => prgRead s.cart addr

/-- `storeb` (20_memory.md R32): a write to RAM lands, any other is discarded without error. -/
def storeb (s : State) (addr : Addr) (v : Byte) : State :=
  match region addr with
  | .ram => { s with ram := s.ram.write (ramIndex addr) v }
  | .stubA | .stubB | .expansionStub | .sramStub | .prg => s

/-- `loadw` (20_memory.md R38): little-endian, the second address modulo 65536. -/
def loadw (s : State) (addr : Addr) : Addr := joinBytes (loadb s addr) (loadb s (addr + 1))

/-- `storew` (20_memory.md R39), an operation of the bus that no instruction uses. -/
def storew (s : State) (addr : Addr) (w : Addr) : State :=
  storeb (storeb s addr (loByte w)) (addr + 1) (hiByte w)

/-- `A <- v`. -/
def State.setA (s : State) (v : Byte) : State := { s with a := v }

/-- `X <- v`. -/
def State.setX (s : State) (v : Byte) : State := { s with x := v }

/-- `Y <- v`. -/
def State.setY (s : State) (v : Byte) : State := { s with y := v }

/-- `P <- v`, used by the flag writes of Machine/Flags.lean only. -/
def State.setP (s : State) (v : Byte) : State := { s with p := v }

/-- `PC <- target`. -/
def State.setPc (s : State) (target : Addr) : State := { s with pc := target }

/-- `HALT <- record`. -/
def State.setHalt (s : State) (r : ErrorRecord) : State := { s with halt := some r }

/-- `PC <- (PC + n) mod 65536` (10_state.md R18). -/
def State.advance (s : State) (n : Nat) : State := s.setPc (s.pc + BitVec.ofNat 16 n)

/-- `FetchByte()` (40_addressing.md R80). -/
def fetchByte (s : State) : Byte × State := (loadb s s.pc, s.advance 1)

/-- `FetchWord()` (40_addressing.md R81). -/
def fetchWord (s : State) : Addr × State := (loadw s s.pc, s.advance 2)

/-- The effect of a failing step (60_exceptions.md R174), on the state the step began in: HALT takes the
record of R171, every register, PC among them, and all memory stay. -/
def takeError (kind : ErrorKind) (s : State) : State := s.setHalt ⟨kind, s.pc, loadb s s.pc⟩

end Sys2Proof.Machine
end

