-- ==== Sys2Proof/Machine/Flags.lean ====
section
/-! DEFINITION. The flags of P (10_state.md R15, R16) and every arithmetic, shift and compare
computation that yields a flag. Only Carry and Zero are ever written (10_state.md R17). -/

namespace Sys2Proof.Machine

/-- The eight bits of P, from bit 0 up (10_state.md R15). -/
inductive Flag where
  | c | z | i | d | b4 | b5 | v | n
  deriving DecidableEq, Repr

/-- The mask of a flag (10_state.md R15). -/
def Flag.mask : Flag → Byte
  | .c => 0x01
  | .z => 0x02
  | .i => 0x04
  | .d => 0x08
  | .b4 => 0x10
  | .b5 => 0x20
  | .v => 0x40
  | .n => 0x80

/-- The bit number of a flag (10_state.md R15). -/
def Flag.bit : Flag → Nat
  | .c => 0
  | .z => 1
  | .i => 2
  | .d => 3
  | .b4 => 4
  | .b5 => 5
  | .v => 6
  | .n => 7

/-- A flag is set when its bit of P is not zero (10_state.md R16). -/
def State.flag (s : State) (f : Flag) : Bool := (s.p &&& f.mask) != 0

/-- Write one bit of P and leave the other seven (00_scope.md R7). -/
def State.setFlag (s : State) (f : Flag) (b : Bool) : State :=
  s.setP (if b then s.p ||| f.mask else s.p &&& ~~~f.mask)

/-- A byte and the carry that goes with it. -/
structure Carried where
  value : Byte
  carry : Bool
  deriving DecidableEq, Repr

/-- ADC's sum (41_arith_adc_sbc.md R100): exact, carry its bit 8, value its low 8 bits. -/
def addWithCarry (a v : Byte) (c : Bool) : Carried :=
  let r := a.toNat + v.toNat + c.toNat
  { value := BitVec.ofNat 8 r, carry := r.testBit 8 }

/-- SBC's difference (41_arith_adc_sbc.md R101): the carry itself is subtracted, and bit 8 of the 16-bit
wrapped difference is the borrow. -/
def subWithCarry (a v : Byte) (c : Bool) : Carried :=
  let d : Int := (a.toNat : Int) - (v.toNat : Int) - (c.toNat : Int)
  { value := BitVec.ofInt 8 d, carry := (d % 65536).toNat.testBit 8 }

/-- The two flags a compare writes. -/
structure Compared where
  carry : Bool
  zero : Bool
  deriving DecidableEq, Repr

/-- The compare of a register with a byte (43_compare.md): 16-bit wrapped difference, carry where its
bit 8 is 0, zero where it is 0. -/
def compareBytes (reg v : Byte) : Compared :=
  let result := (((reg.toNat : Int) - (v.toNat : Int)) % 65536).toNat
  { carry := !result.testBit 8, zero := result == 0 }

/-- ASL (42_logic_shift.md R113). -/
def shiftLeft (v : Byte) : Carried := { value := v <<< 1, carry := v.getLsbD 7 }

/-- LSR (42_logic_shift.md R114). -/
def shiftRight (v : Byte) : Carried := { value := v >>> 1, carry := v.getLsbD 0 }

/-- A carry as a byte, 0x01 or 0x00. -/
def carryByte (c : Bool) : Byte := if c then 0x01 else 0x00

/-- ROL (42_logic_shift.md R115): the old carry enters bit 0. -/
def rotateLeft (v : Byte) (c : Bool) : Carried :=
  { value := (v <<< 1) ||| carryByte c, carry := v.getLsbD 7 }

/-- ROR (42_logic_shift.md R116): the old carry enters bit 7. -/
def rotateRight (v : Byte) (c : Bool) : Carried :=
  { value := (v >>> 1) ||| (carryByte c <<< 7), carry := v.getLsbD 0 }

end Sys2Proof.Machine
end

