-- ==== Sys2Proof/Machine/Operands.lean ====
section
/-! DEFINITION. The addressing-mode resolver (40_addressing.md): for each mode, what place it names, the
load from it and the store to it, and how far PC moves. -/

namespace Sys2Proof.Machine

/-- An operand: a mode of 40_addressing.md with the operand bytes the instruction carries. IMP and REL
name no place; their instructions use none. -/
inductive Operand where
  | acc
  | imm (nn : Byte)
  | zp (nn : Byte)
  | zpx (nn : Byte)
  | zpy (nn : Byte)
  | abs (addr : Addr)
  | absx (addr : Addr)
  | absy (addr : Addr)
  deriving DecidableEq, Repr

/-- The mode tag of an operand. -/
def Operand.mode : Operand → Mode
  | .acc => .acc
  | .imm _ => .imm
  | .zp _ => .zp
  | .zpx _ => .zpx
  | .zpy _ => .zpy
  | .abs _ => .abs
  | .absx _ => .absx
  | .absy _ => .absy

/-- The length of an instruction with this operand: the opcode and the operand bytes (30_encoding.md
R61). -/
def Operand.length (o : Operand) : Nat := 1 + o.mode.operandWidth

/-- A place an operand resolves to (40_addressing.md R91). -/
inductive Place where
  | acc
  | value (nn : Byte)
  | mem (ea : Addr)
  deriving DecidableEq, Repr

/-- The effective address of ZP (40_addressing.md R85). -/
def eaZeroPage (nn : Byte) : Addr := zext16 nn

/-- The effective address of ZPX and ZPY (40_addressing.md R86, R87): the sum wraps inside page zero. -/
def eaZeroPageIndexed (nn index : Byte) : Addr := zext16 (nn + index)

/-- The effective address of ABSX and ABSY (40_addressing.md R89, R90): a full sum modulo 65536. -/
def eaAbsoluteIndexed (addr : Addr) (index : Byte) : Addr := addr + zext16 index

/-- `Resolve(mode)` (40_addressing.md R91): the place, with the index registers as they stand. -/
def resolve (o : Operand) (s : State) : Place :=
  match o with
  | .acc => .acc
  | .imm nn => .value nn
  | .zp nn => .mem (eaZeroPage nn)
  | .zpx nn => .mem (eaZeroPageIndexed nn s.x)
  | .zpy nn => .mem (eaZeroPageIndexed nn s.y)
  | .abs addr => .mem addr
  | .absx addr => .mem (eaAbsoluteIndexed addr s.x)
  | .absy addr => .mem (eaAbsoluteIndexed addr s.y)

/-- `LoadAt(place)` (40_addressing.md R91). -/
def loadAt (place : Place) (s : State) : Byte :=
  match place with
  | .acc => s.a
  | .value nn => nn
  | .mem ea => loadb s ea

/-- `StoreAt(place, v)` (40_addressing.md R91); none where the mode is load-only (R92). -/
def storeAt (place : Place) (v : Byte) (s : State) : Option State :=
  match place with
  | .acc => some (s.setA v)
  | .value _ => none
  | .mem ea => some (storeb s ea v)

/-- The shape of an instruction that loads through its operand: `apply` takes the byte loaded, then PC
moves past the instruction. -/
def loadThen (o : Operand) (apply : Byte → State → State) (s : State) : Result :=
  .next ((apply (loadAt (resolve o s) s) s).advance o.length)

/-- The end of an instruction that stores: PC moves past the instruction, or, where the store is through
a load-only mode, the step fails with InvalidAddressingMode (40_addressing.md R92, 60_exceptions.md R172,
R174). `s` is the state the step began in. -/
def finishStore (o : Operand) (s : State) (stored : Option State) : Result :=
  match stored with
  | some t => .next (t.advance o.length)
  | none => .next (takeError .invalidAddressingMode s)

/-- `Store(mode, v)` (40_addressing.md R91): the whole of STA, STX and STY. -/
def storeThrough (o : Operand) (v : Byte) (s : State) : Result :=
  finishStore o s (storeAt (resolve o s) v s)

/-- Read, compute, write back to the same place, resolved once (40_addressing.md R91), and Carry: the
whole of the shifts and rotates. `f` takes the byte and the old Carry. -/
def modifyThrough (o : Operand) (f : Byte → Bool → Carried) (s : State) : Result :=
  let place := resolve o s
  let r := f (loadAt place s) (s.flag .c)
  finishStore o s (storeAt place r.value (s.setFlag .c r.carry))

end Sys2Proof.Machine
end

