-- ==== Sys2Proof/Machine/Arith.lean ====
section
/-! DEFINITION. ADC and SBC (41_arith_adc_sbc.md). Carry is the only flag written. -/

namespace Sys2Proof.Machine

/-- ADC (R100): `A + v + C` into A and Carry. -/
def runAdc (o : Operand) (s : State) : Result :=
  loadThen o (fun v s =>
    let r := addWithCarry s.a v (s.flag .c)
    (s.setFlag .c r.carry).setA r.value) s

/-- ADC immediate (R100). -/
def execAdcImm (nn : Byte) (s : State) : Result := runAdc (.imm nn) s

/-- ADC zero page (R100). -/
def execAdcZp (nn : Byte) (s : State) : Result := runAdc (.zp nn) s

/-- ADC zero page,X (R100). -/
def execAdcZpx (nn : Byte) (s : State) : Result := runAdc (.zpx nn) s

/-- ADC absolute (R100). -/
def execAdcAbs (addr : Addr) (s : State) : Result := runAdc (.abs addr) s

/-- ADC absolute,X (R100). -/
def execAdcAbsx (addr : Addr) (s : State) : Result := runAdc (.absx addr) s

/-- ADC absolute,Y (R100). -/
def execAdcAbsy (addr : Addr) (s : State) : Result := runAdc (.absy addr) s

/-- SBC (R101): `A - v - C` into A, Carry set on a borrow. -/
def runSbc (o : Operand) (s : State) : Result :=
  loadThen o (fun v s =>
    let r := subWithCarry s.a v (s.flag .c)
    (s.setFlag .c r.carry).setA r.value) s

/-- SBC immediate (R101). -/
def execSbcImm (nn : Byte) (s : State) : Result := runSbc (.imm nn) s

/-- SBC zero page (R101). -/
def execSbcZp (nn : Byte) (s : State) : Result := runSbc (.zp nn) s

/-- SBC zero page,X (R101). -/
def execSbcZpx (nn : Byte) (s : State) : Result := runSbc (.zpx nn) s

/-- SBC absolute (R101). -/
def execSbcAbs (addr : Addr) (s : State) : Result := runSbc (.abs addr) s

/-- SBC absolute,X (R101). -/
def execSbcAbsx (addr : Addr) (s : State) : Result := runSbc (.absx addr) s

/-- SBC absolute,Y (R101). -/
def execSbcAbsy (addr : Addr) (s : State) : Result := runSbc (.absy addr) s

end Sys2Proof.Machine
end

