-- ==== Sys2Proof/Machine/Compare.lean ====
section
/-! DEFINITION. CMP, CPX and CPY (43_compare.md). The only writers of Zero; no register changes. -/

namespace Sys2Proof.Machine

/-- Write the two flags of a compare of `reg` with `v` (43_compare.md). -/
def writeCompare (reg v : Byte) (s : State) : State :=
  let r := compareBytes reg v
  (s.setFlag .c r.carry).setFlag .z r.zero

/-- CMP (R120). -/
def runCmp (o : Operand) (s : State) : Result := loadThen o (fun v s => writeCompare s.a v s) s

/-- CMP immediate (R120). -/
def execCmpImm (nn : Byte) (s : State) : Result := runCmp (.imm nn) s

/-- CMP zero page (R120). -/
def execCmpZp (nn : Byte) (s : State) : Result := runCmp (.zp nn) s

/-- CMP zero page,X (R120). -/
def execCmpZpx (nn : Byte) (s : State) : Result := runCmp (.zpx nn) s

/-- CMP absolute (R120). -/
def execCmpAbs (addr : Addr) (s : State) : Result := runCmp (.abs addr) s

/-- CMP absolute,X (R120). -/
def execCmpAbsx (addr : Addr) (s : State) : Result := runCmp (.absx addr) s

/-- CMP absolute,Y (R120). -/
def execCmpAbsy (addr : Addr) (s : State) : Result := runCmp (.absy addr) s

/-- CPX (R121). -/
def runCpx (o : Operand) (s : State) : Result := loadThen o (fun v s => writeCompare s.x v s) s

/-- CPX immediate (R121). -/
def execCpxImm (nn : Byte) (s : State) : Result := runCpx (.imm nn) s

/-- CPX zero page (R121). -/
def execCpxZp (nn : Byte) (s : State) : Result := runCpx (.zp nn) s

/-- CPX absolute (R121). -/
def execCpxAbs (addr : Addr) (s : State) : Result := runCpx (.abs addr) s

/-- CPY (R122). -/
def runCpy (o : Operand) (s : State) : Result := loadThen o (fun v s => writeCompare s.y v s) s

/-- CPY immediate (R122). -/
def execCpyImm (nn : Byte) (s : State) : Result := runCpy (.imm nn) s

/-- CPY zero page (R122). -/
def execCpyZp (nn : Byte) (s : State) : Result := runCpy (.zp nn) s

/-- CPY absolute (R122). -/
def execCpyAbs (addr : Addr) (s : State) : Result := runCpy (.abs addr) s

end Sys2Proof.Machine
end

