-- ==== Sys2Proof/Machine/Control.lean ====
section
/-! DEFINITION. NOP, the eight branches and JMP (45_control.md). No flag and no register but PC is
written. -/

namespace Sys2Proof.Machine

/-- NOP (R149): PC moves past the opcode. -/
def execNop (s : State) : Result := .next (s.advance 1)

/-- The common branch (R140): PC passes the offset byte, and a taken branch adds it, zero-extended,
modulo 65536. -/
def branch (f : Flag) (want : Bool) (offset : Byte) (s : State) : Result :=
  let past := s.advance 2
  .next (if s.flag f = want then past.setPc (past.pc + zext16 offset) else past)

/-- BPL (R141): taken when N is 0. -/
def execBpl (offset : Byte) (s : State) : Result := branch .n false offset s

/-- BMI (R142): taken when N is 1. -/
def execBmi (offset : Byte) (s : State) : Result := branch .n true offset s

/-- BVC (R143): taken when V is 0. -/
def execBvc (offset : Byte) (s : State) : Result := branch .v false offset s

/-- BVS (R144): taken when V is 1. -/
def execBvs (offset : Byte) (s : State) : Result := branch .v true offset s

/-- BCC (R145): taken when C is 0. -/
def execBcc (offset : Byte) (s : State) : Result := branch .c false offset s

/-- BCS (R146): taken when C is 1. -/
def execBcs (offset : Byte) (s : State) : Result := branch .c true offset s

/-- BNE (R147): taken when Z is 0. -/
def execBne (offset : Byte) (s : State) : Result := branch .z false offset s

/-- BEQ (R148): taken when Z is 1. -/
def execBeq (offset : Byte) (s : State) : Result := branch .z true offset s

/-- JMP absolute (R150): PC becomes the operand word; no data access is made. -/
def execJmp (target : Addr) (s : State) : Result := .next (s.setPc target)

end Sys2Proof.Machine
end

