-- ==== Sys2Proof/Machine/IncDec.lean ====
section
/-! DEFINITION. INX, INY, DEX and DEY (46_incdec.md): 8-bit wrap, no flag written. -/

namespace Sys2Proof.Machine

/-- INX (R160). -/
def execInx (s : State) : Result := .next ((s.setX (s.x + 1)).advance 1)

/-- INY (R161). -/
def execIny (s : State) : Result := .next ((s.setY (s.y + 1)).advance 1)

/-- DEX (R162). -/
def execDex (s : State) : Result := .next ((s.setX (s.x - 1)).advance 1)

/-- DEY (R163). -/
def execDey (s : State) : Result := .next ((s.setY (s.y - 1)).advance 1)

end Sys2Proof.Machine
end

