-- ==== Sys2Proof/Machine/LoadStore.lean ====
section
/-! DEFINITION. LDA, LDX, LDY, STA, STX and STY (44_load_store.md). No flag is written. -/

namespace Sys2Proof.Machine

/-- LDA (R130). -/
def runLda (o : Operand) (s : State) : Result := loadThen o (fun v s => s.setA v) s

/-- LDA immediate (R130). -/
def execLdaImm (nn : Byte) (s : State) : Result := runLda (.imm nn) s

/-- LDA zero page (R130). -/
def execLdaZp (nn : Byte) (s : State) : Result := runLda (.zp nn) s

/-- LDA zero page,X (R130). -/
def execLdaZpx (nn : Byte) (s : State) : Result := runLda (.zpx nn) s

/-- LDA absolute (R130). -/
def execLdaAbs (addr : Addr) (s : State) : Result := runLda (.abs addr) s

/-- LDA absolute,X (R130). -/
def execLdaAbsx (addr : Addr) (s : State) : Result := runLda (.absx addr) s

/-- LDA absolute,Y (R130). -/
def execLdaAbsy (addr : Addr) (s : State) : Result := runLda (.absy addr) s

/-- LDX (R131). -/
def runLdx (o : Operand) (s : State) : Result := loadThen o (fun v s => s.setX v) s

/-- LDX immediate (R131). -/
def execLdxImm (nn : Byte) (s : State) : Result := runLdx (.imm nn) s

/-- LDX zero page (R131). -/
def execLdxZp (nn : Byte) (s : State) : Result := runLdx (.zp nn) s

/-- LDX zero page,Y (R131). -/
def execLdxZpy (nn : Byte) (s : State) : Result := runLdx (.zpy nn) s

/-- LDX absolute (R131). -/
def execLdxAbs (addr : Addr) (s : State) : Result := runLdx (.abs addr) s

/-- LDX absolute,Y (R131). -/
def execLdxAbsy (addr : Addr) (s : State) : Result := runLdx (.absy addr) s

/-- LDY (R132). -/
def runLdy (o : Operand) (s : State) : Result := loadThen o (fun v s => s.setY v) s

/-- LDY immediate (R132). -/
def execLdyImm (nn : Byte) (s : State) : Result := runLdy (.imm nn) s

/-- LDY zero page (R132). -/
def execLdyZp (nn : Byte) (s : State) : Result := runLdy (.zp nn) s

/-- LDY zero page,X (R132). -/
def execLdyZpx (nn : Byte) (s : State) : Result := runLdy (.zpx nn) s

/-- LDY absolute (R132). -/
def execLdyAbs (addr : Addr) (s : State) : Result := runLdy (.abs addr) s

/-- LDY absolute,X (R132). -/
def execLdyAbsx (addr : Addr) (s : State) : Result := runLdy (.absx addr) s

/-- STA (R133). -/
def runSta (o : Operand) (s : State) : Result := storeThrough o s.a s

/-- STA zero page (R133). -/
def execStaZp (nn : Byte) (s : State) : Result := runSta (.zp nn) s

/-- STA zero page,X (R133). -/
def execStaZpx (nn : Byte) (s : State) : Result := runSta (.zpx nn) s

/-- STA absolute (R133). -/
def execStaAbs (addr : Addr) (s : State) : Result := runSta (.abs addr) s

/-- STA absolute,X (R133). -/
def execStaAbsx (addr : Addr) (s : State) : Result := runSta (.absx addr) s

/-- STA absolute,Y (R133). -/
def execStaAbsy (addr : Addr) (s : State) : Result := runSta (.absy addr) s

/-- STX (R134). -/
def runStx (o : Operand) (s : State) : Result := storeThrough o s.x s

/-- STX zero page (R134). -/
def execStxZp (nn : Byte) (s : State) : Result := runStx (.zp nn) s

/-- STX zero page,Y (R134). -/
def execStxZpy (nn : Byte) (s : State) : Result := runStx (.zpy nn) s

/-- STX absolute (R134). -/
def execStxAbs (addr : Addr) (s : State) : Result := runStx (.abs addr) s

/-- STY (R135). -/
def runSty (o : Operand) (s : State) : Result := storeThrough o s.y s

/-- STY zero page (R135). -/
def execStyZp (nn : Byte) (s : State) : Result := runSty (.zp nn) s

/-- STY zero page,X (R135). -/
def execStyZpx (nn : Byte) (s : State) : Result := runSty (.zpx nn) s

/-- STY absolute (R135). -/
def execStyAbs (addr : Addr) (s : State) : Result := runSty (.abs addr) s

end Sys2Proof.Machine
end

