-- ==== Sys2Proof/Machine/Logic.lean ====
section
/-! DEFINITION. AND, ORA and EOR (42_logic_shift.md section 1). No flag is written. -/

namespace Sys2Proof.Machine

/-- AND (R110). -/
def runAnd (o : Operand) (s : State) : Result := loadThen o (fun v s => s.setA (s.a &&& v)) s

/-- AND immediate (R110). -/
def execAndImm (nn : Byte) (s : State) : Result := runAnd (.imm nn) s

/-- AND zero page (R110). -/
def execAndZp (nn : Byte) (s : State) : Result := runAnd (.zp nn) s

/-- AND zero page,X (R110). -/
def execAndZpx (nn : Byte) (s : State) : Result := runAnd (.zpx nn) s

/-- AND absolute (R110). -/
def execAndAbs (addr : Addr) (s : State) : Result := runAnd (.abs addr) s

/-- AND absolute,X (R110). -/
def execAndAbsx (addr : Addr) (s : State) : Result := runAnd (.absx addr) s

/-- AND absolute,Y (R110). -/
def execAndAbsy (addr : Addr) (s : State) : Result := runAnd (.absy addr) s

/-- ORA (R111). -/
def runOra (o : Operand) (s : State) : Result := loadThen o (fun v s => s.setA (s.a ||| v)) s

/-- ORA immediate (R111). -/
def execOraImm (nn : Byte) (s : State) : Result := runOra (.imm nn) s

/-- ORA zero page (R111). -/
def execOraZp (nn : Byte) (s : State) : Result := runOra (.zp nn) s

/-- ORA zero page,X (R111). -/
def execOraZpx (nn : Byte) (s : State) : Result := runOra (.zpx nn) s

/-- ORA absolute (R111). -/
def execOraAbs (addr : Addr) (s : State) : Result := runOra (.abs addr) s

/-- ORA absolute,X (R111). -/
def execOraAbsx (addr : Addr) (s : State) : Result := runOra (.absx addr) s

/-- ORA absolute,Y (R111). -/
def execOraAbsy (addr : Addr) (s : State) : Result := runOra (.absy addr) s

/-- EOR (R112). -/
def runEor (o : Operand) (s : State) : Result := loadThen o (fun v s => s.setA (s.a ^^^ v)) s

/-- EOR immediate (R112). -/
def execEorImm (nn : Byte) (s : State) : Result := runEor (.imm nn) s

/-- EOR zero page (R112). -/
def execEorZp (nn : Byte) (s : State) : Result := runEor (.zp nn) s

/-- EOR zero page,X (R112). -/
def execEorZpx (nn : Byte) (s : State) : Result := runEor (.zpx nn) s

/-- EOR absolute (R112). -/
def execEorAbs (addr : Addr) (s : State) : Result := runEor (.abs addr) s

/-- EOR absolute,X (R112). -/
def execEorAbsx (addr : Addr) (s : State) : Result := runEor (.absx addr) s

/-- EOR absolute,Y (R112). -/
def execEorAbsy (addr : Addr) (s : State) : Result := runEor (.absy addr) s

end Sys2Proof.Machine
end

