-- ==== Sys2Proof/Machine/Shift.lean ====
section
/-! DEFINITION. ASL, LSR, ROL and ROR (42_logic_shift.md section 2). Carry is the only flag written. -/

namespace Sys2Proof.Machine

/-- ASL (R113). -/
def runAsl (o : Operand) (s : State) : Result := modifyThrough o (fun v _ => shiftLeft v) s

/-- ASL accumulator (R113). -/
def execAslAcc (s : State) : Result := runAsl .acc s

/-- ASL zero page (R113). -/
def execAslZp (nn : Byte) (s : State) : Result := runAsl (.zp nn) s

/-- ASL zero page,X (R113). -/
def execAslZpx (nn : Byte) (s : State) : Result := runAsl (.zpx nn) s

/-- ASL absolute (R113). -/
def execAslAbs (addr : Addr) (s : State) : Result := runAsl (.abs addr) s

/-- ASL absolute,X (R113). -/
def execAslAbsx (addr : Addr) (s : State) : Result := runAsl (.absx addr) s

/-- LSR (R114). -/
def runLsr (o : Operand) (s : State) : Result := modifyThrough o (fun v _ => shiftRight v) s

/-- LSR accumulator (R114). -/
def execLsrAcc (s : State) : Result := runLsr .acc s

/-- LSR zero page (R114). -/
def execLsrZp (nn : Byte) (s : State) : Result := runLsr (.zp nn) s

/-- LSR zero page,X (R114). -/
def execLsrZpx (nn : Byte) (s : State) : Result := runLsr (.zpx nn) s

/-- LSR absolute (R114). -/
def execLsrAbs (addr : Addr) (s : State) : Result := runLsr (.abs addr) s

/-- LSR absolute,X (R114). -/
def execLsrAbsx (addr : Addr) (s : State) : Result := runLsr (.absx addr) s

/-- ROL (R115). -/
def runRol (o : Operand) (s : State) : Result := modifyThrough o rotateLeft s

/-- ROL accumulator (R115). -/
def execRolAcc (s : State) : Result := runRol .acc s

/-- ROL zero page (R115). -/
def execRolZp (nn : Byte) (s : State) : Result := runRol (.zp nn) s

/-- ROL zero page,X (R115). -/
def execRolZpx (nn : Byte) (s : State) : Result := runRol (.zpx nn) s

/-- ROL absolute (R115). -/
def execRolAbs (addr : Addr) (s : State) : Result := runRol (.abs addr) s

/-- ROL absolute,X (R115). -/
def execRolAbsx (addr : Addr) (s : State) : Result := runRol (.absx addr) s

/-- ROR (R116). -/
def runRor (o : Operand) (s : State) : Result := modifyThrough o rotateRight s

/-- ROR accumulator (R116). -/
def execRorAcc (s : State) : Result := runRor .acc s

/-- ROR zero page (R116). -/
def execRorZp (nn : Byte) (s : State) : Result := runRor (.zp nn) s

/-- ROR zero page,X (R116). -/
def execRorZpx (nn : Byte) (s : State) : Result := runRor (.zpx nn) s

/-- ROR absolute (R116). -/
def execRorAbs (addr : Addr) (s : State) : Result := runRor (.abs addr) s

/-- ROR absolute,X (R116). -/
def execRorAbsx (addr : Addr) (s : State) : Result := runRor (.absx addr) s

end Sys2Proof.Machine
end

