-- ==== Sys2Proof/Machine/Dispatch.lean ====
section
/-! DEFINITION. One arm per constructor of Instr. `exec` takes the state the step began in, with PC at
the opcode, and its meaning moves PC past the whole instruction (10_state.md R18, log entry 6). -/

namespace Sys2Proof.Machine

/-- The meaning of each instruction. -/
def exec (i : Instr) (s : State) : Host.Outcome State Fault Refusal :=
  match i with
  -- ADC, R100
  | .adcImm nn => Sys2Proof.Machine.execAdcImm nn s
  | .adcZp nn => Sys2Proof.Machine.execAdcZp nn s
  | .adcZpx nn => Sys2Proof.Machine.execAdcZpx nn s
  | .adcAbs addr => Sys2Proof.Machine.execAdcAbs addr s
  | .adcAbsx addr => Sys2Proof.Machine.execAdcAbsx addr s
  | .adcAbsy addr => Sys2Proof.Machine.execAdcAbsy addr s
  -- SBC, R101
  | .sbcImm nn => Sys2Proof.Machine.execSbcImm nn s
  | .sbcZp nn => Sys2Proof.Machine.execSbcZp nn s
  | .sbcZpx nn => Sys2Proof.Machine.execSbcZpx nn s
  | .sbcAbs addr => Sys2Proof.Machine.execSbcAbs addr s
  | .sbcAbsx addr => Sys2Proof.Machine.execSbcAbsx addr s
  | .sbcAbsy addr => Sys2Proof.Machine.execSbcAbsy addr s
  -- AND, R110
  | .andImm nn => Sys2Proof.Machine.execAndImm nn s
  | .andZp nn => Sys2Proof.Machine.execAndZp nn s
  | .andZpx nn => Sys2Proof.Machine.execAndZpx nn s
  | .andAbs addr => Sys2Proof.Machine.execAndAbs addr s
  | .andAbsx addr => Sys2Proof.Machine.execAndAbsx addr s
  | .andAbsy addr => Sys2Proof.Machine.execAndAbsy addr s
  -- ORA, R111
  | .oraImm nn => Sys2Proof.Machine.execOraImm nn s
  | .oraZp nn => Sys2Proof.Machine.execOraZp nn s
  | .oraZpx nn => Sys2Proof.Machine.execOraZpx nn s
  | .oraAbs addr => Sys2Proof.Machine.execOraAbs addr s
  | .oraAbsx addr => Sys2Proof.Machine.execOraAbsx addr s
  | .oraAbsy addr => Sys2Proof.Machine.execOraAbsy addr s
  -- EOR, R112
  | .eorImm nn => Sys2Proof.Machine.execEorImm nn s
  | .eorZp nn => Sys2Proof.Machine.execEorZp nn s
  | .eorZpx nn => Sys2Proof.Machine.execEorZpx nn s
  | .eorAbs addr => Sys2Proof.Machine.execEorAbs addr s
  | .eorAbsx addr => Sys2Proof.Machine.execEorAbsx addr s
  | .eorAbsy addr => Sys2Proof.Machine.execEorAbsy addr s
  -- ASL, R113
  | .aslAcc => Sys2Proof.Machine.execAslAcc s
  | .aslZp nn => Sys2Proof.Machine.execAslZp nn s
  | .aslZpx nn => Sys2Proof.Machine.execAslZpx nn s
  | .aslAbs addr => Sys2Proof.Machine.execAslAbs addr s
  | .aslAbsx addr => Sys2Proof.Machine.execAslAbsx addr s
  -- LSR, R114
  | .lsrAcc => Sys2Proof.Machine.execLsrAcc s
  | .lsrZp nn => Sys2Proof.Machine.execLsrZp nn s
  | .lsrZpx nn => Sys2Proof.Machine.execLsrZpx nn s
  | .lsrAbs addr => Sys2Proof.Machine.execLsrAbs addr s
  | .lsrAbsx addr => Sys2Proof.Machine.execLsrAbsx addr s
  -- ROL, R115
  | .rolAcc => Sys2Proof.Machine.execRolAcc s
  | .rolZp nn => Sys2Proof.Machine.execRolZp nn s
  | .rolZpx nn => Sys2Proof.Machine.execRolZpx nn s
  | .rolAbs addr => Sys2Proof.Machine.execRolAbs addr s
  | .rolAbsx addr => Sys2Proof.Machine.execRolAbsx addr s
  -- ROR, R116
  | .rorAcc => Sys2Proof.Machine.execRorAcc s
  | .rorZp nn => Sys2Proof.Machine.execRorZp nn s
  | .rorZpx nn => Sys2Proof.Machine.execRorZpx nn s
  | .rorAbs addr => Sys2Proof.Machine.execRorAbs addr s
  | .rorAbsx addr => Sys2Proof.Machine.execRorAbsx addr s
  -- CMP, R120
  | .cmpImm nn => Sys2Proof.Machine.execCmpImm nn s
  | .cmpZp nn => Sys2Proof.Machine.execCmpZp nn s
  | .cmpZpx nn => Sys2Proof.Machine.execCmpZpx nn s
  | .cmpAbs addr => Sys2Proof.Machine.execCmpAbs addr s
  | .cmpAbsx addr => Sys2Proof.Machine.execCmpAbsx addr s
  | .cmpAbsy addr => Sys2Proof.Machine.execCmpAbsy addr s
  -- CPX, R121
  | .cpxImm nn => Sys2Proof.Machine.execCpxImm nn s
  | .cpxZp nn => Sys2Proof.Machine.execCpxZp nn s
  | .cpxAbs addr => Sys2Proof.Machine.execCpxAbs addr s
  -- CPY, R122
  | .cpyImm nn => Sys2Proof.Machine.execCpyImm nn s
  | .cpyZp nn => Sys2Proof.Machine.execCpyZp nn s
  | .cpyAbs addr => Sys2Proof.Machine.execCpyAbs addr s
  -- LDA, R130
  | .ldaImm nn => Sys2Proof.Machine.execLdaImm nn s
  | .ldaZp nn => Sys2Proof.Machine.execLdaZp nn s
  | .ldaZpx nn => Sys2Proof.Machine.execLdaZpx nn s
  | .ldaAbs addr => Sys2Proof.Machine.execLdaAbs addr s
  | .ldaAbsx addr => Sys2Proof.Machine.execLdaAbsx addr s
  | .ldaAbsy addr => Sys2Proof.Machine.execLdaAbsy addr s
  -- LDX, R131
  | .ldxImm nn => Sys2Proof.Machine.execLdxImm nn s
  | .ldxZp nn => Sys2Proof.Machine.execLdxZp nn s
  | .ldxZpy nn => Sys2Proof.Machine.execLdxZpy nn s
  | .ldxAbs addr => Sys2Proof.Machine.execLdxAbs addr s
  | .ldxAbsy addr => Sys2Proof.Machine.execLdxAbsy addr s
  -- LDY, R132
  | .ldyImm nn => Sys2Proof.Machine.execLdyImm nn s
  | .ldyZp nn => Sys2Proof.Machine.execLdyZp nn s
  | .ldyZpx nn => Sys2Proof.Machine.execLdyZpx nn s
  | .ldyAbs addr => Sys2Proof.Machine.execLdyAbs addr s
  | .ldyAbsx addr => Sys2Proof.Machine.execLdyAbsx addr s
  -- STA, R133
  | .staZp nn => Sys2Proof.Machine.execStaZp nn s
  | .staZpx nn => Sys2Proof.Machine.execStaZpx nn s
  | .staAbs addr => Sys2Proof.Machine.execStaAbs addr s
  | .staAbsx addr => Sys2Proof.Machine.execStaAbsx addr s
  | .staAbsy addr => Sys2Proof.Machine.execStaAbsy addr s
  -- STX, R134
  | .stxZp nn => Sys2Proof.Machine.execStxZp nn s
  | .stxZpy nn => Sys2Proof.Machine.execStxZpy nn s
  | .stxAbs addr => Sys2Proof.Machine.execStxAbs addr s
  -- STY, R135
  | .styZp nn => Sys2Proof.Machine.execStyZp nn s
  | .styZpx nn => Sys2Proof.Machine.execStyZpx nn s
  | .styAbs addr => Sys2Proof.Machine.execStyAbs addr s
  -- NOP, R149
  | .nop => Sys2Proof.Machine.execNop s
  -- BPL, R141
  | .bpl offset => Sys2Proof.Machine.execBpl offset s
  -- BMI, R142
  | .bmi offset => Sys2Proof.Machine.execBmi offset s
  -- BVC, R143
  | .bvc offset => Sys2Proof.Machine.execBvc offset s
  -- BVS, R144
  | .bvs offset => Sys2Proof.Machine.execBvs offset s
  -- BCC, R145
  | .bcc offset => Sys2Proof.Machine.execBcc offset s
  -- BCS, R146
  | .bcs offset => Sys2Proof.Machine.execBcs offset s
  -- BNE, R147
  | .bne offset => Sys2Proof.Machine.execBne offset s
  -- BEQ, R148
  | .beq offset => Sys2Proof.Machine.execBeq offset s
  -- JMP, R150
  | .jmp target => Sys2Proof.Machine.execJmp target s
  -- INX, R160
  | .inx => Sys2Proof.Machine.execInx s
  -- INY, R161
  | .iny => Sys2Proof.Machine.execIny s
  -- DEX, R162
  | .dex => Sys2Proof.Machine.execDex s
  -- DEY, R163
  | .dey => Sys2Proof.Machine.execDey s

end Sys2Proof.Machine
end

