-- ==== Sys2Proof/Machine/Fetch.lean ====
section
/-! DEFINITION. Fetching an instruction (70_reset_and_hazards.md R194), what a step does where it runs
none, and the host's placing of one instruction where the next step fetches. -/

namespace Sys2Proof.Machine

/-- The instruction at PC: the opcode byte by `FetchByte`, its table entry, then the operand bytes the
entry's mode consumes and no other. None where the opcode is illegal (30_encoding.md R66). -/
def fetchInstr (s : State) : Option Instr :=
  let opcode := fetchByte s
  match lookup opcode.1 with
  | none => none
  | some (.bare i) => some i
  | some (.byte make) => some (make (fetchByte opcode.2).1)
  | some (.word make) => some (make (fetchWord opcode.2).1)

/-- A step of a halted machine changes nothing (60_exceptions.md R175). -/
def stepHalted (s : State) : Result := .next s

/-- A step that meets an illegal opcode (60_exceptions.md R171, R174). -/
def stepIllegal (s : State) : Result := .next (takeError .illegalOpcode s)

/-- Put a byte where the bus reads it, as a load of the machine from outside does: into RAM, or into the
cartridge's PRG; a stub region holds nothing. -/
def placeByte (s : State) (addr : Addr) (v : Byte) : State :=
  match region addr with
  | .ram => { s with ram := s.ram.write (ramIndex addr) v }
  | .prg =>
    match prgIndex s.cart addr with
    | some i => { s with cart := { s.cart with prg := s.cart.prg.write i v } }
    | none => s
  | .stubA | .stubB | .expansionStub | .sramStub => s

/-- Whether an address names a byte that can be placed. -/
def placeable (s : State) (addr : Addr) : Bool :=
  match region addr with
  | .ram => true
  | .prg => (prgIndex s.cart addr).isSome
  | .stubA | .stubB | .expansionStub | .sramStub => false

/-- Put an instruction's three bytes where the next step fetches (log entry 8): at PC where all three can
be placed, else at 0x0000 with PC moved there; a halted machine is set running. -/
def placeInstr (s : State) (b0 b1 b2 : Byte) : State :=
  let fits := placeable s s.pc && placeable s (s.pc + 1) && placeable s (s.pc + 2)
  let at0 := { s with halt := none, pc := if fits then s.pc else 0x0000 }
  placeByte (placeByte (placeByte at0 at0.pc b0) (at0.pc + 1) b1) (at0.pc + 2) b2

end Sys2Proof.Machine
end

