-- ==== Sys2Proof/Machine/Step.lean ====
section
/-! DEFINITION. One call of `step()` (70_reset_and_hazards.md R194), and the host's placing of an
instruction at the next fetch. -/

namespace Sys2Proof.Machine

/-- `step()` (70_reset_and_hazards.md R194): a halted machine stays, an illegal opcode halts it, and any
other opcode runs its instruction. -/
def step (s : State) : Host.Outcome State Fault Refusal :=
  match s.halt with
  | some _ => stepHalted s
  | none =>
    match fetchInstr s with
    | none => stepIllegal s
    | some i => exec i s

/-- The state with an instruction, its bits numbered as spec/opcode_table.json numbers them, stored where
the next step fetches (log entry 8). -/
def State.withFetchWord (s : State) (nbits w : Nat) : State :=
  match tableBytes nbits w with
  | [b0, b1, b2] => placeInstr s b0 b1 b2
  | _ => s

end Sys2Proof.Machine
end

