-- ==== Sys2Proof/Machine/Cartridge.lean ====
section
/-! DEFINITION. The cartridge image parser (20_memory.md part B). -/

namespace Sys2Proof.Machine

/-- Which check of the parser failed. The spec has one name, FormatError, and lets a model attach the
check (60_exceptions.md R173, log entry 9). -/
inductive FormatError where
  | truncatedHeader
  | badMagic
  | truncatedTrainer
  | truncatedPrg
  | truncatedChr
  deriving DecidableEq, Repr

/-- The header in the first 16 bytes of an image, none where there are fewer (20_memory.md R50). -/
def Header.ofImage : List Byte → Option Header
  | m0 :: m1 :: m2 :: m3 :: prgBanks :: chrBanks :: flags6 :: flags7 :: prgRamSize :: flags9 :: flags10 ::
      r0 :: r1 :: r2 :: r3 :: r4 :: _ =>
    some { magic := #v[m0, m1, m2, m3], prgBanks, chrBanks, flags6, flags7, prgRamSize, flags9, flags10,
           reserved := #v[r0, r1, r2, r3, r4] }
  | _ => none

/-- The 16 bytes of a header (20_memory.md R50). -/
def Header.bytes (h : Header) : List Byte :=
  h.magic.toList ++ [h.prgBanks, h.chrBanks, h.flags6, h.flags7, h.prgRamSize, h.flags9, h.flags10]
    ++ h.reserved.toList

/-- Bytes the trainer takes: 512 where bit 2 of `flags6` is set, else none (20_memory.md R51, R54). -/
def Header.trainerLength (h : Header) : Nat :=
  if h.flags6 &&& 0x04 ≠ 0 then Config.trainerSize else 0

/-- Bytes of PRG data (20_memory.md R51). -/
def Header.prgLength (h : Header) : Nat := h.prgBanks.toNat * Config.prgBankSize

/-- Bytes of CHR data (20_memory.md R51). -/
def Header.chrLength (h : Header) : Nat := h.chrBanks.toNat * Config.chrBankSize

/-- `parse` (20_memory.md R51): header length, magic, trainer, PRG and CHR are checked in that order;
the trainer is skipped and not stored, and bytes after CHR are ignored. -/
def parse (img : List Byte) : Except FormatError Cartridge :=
  match Header.ofImage img with
  | none => .error .truncatedHeader
  | some header =>
    let prgStart := Config.headerSize + header.trainerLength
    let chrStart := prgStart + header.prgLength
    if header.magic ≠ Config.magic then .error .badMagic
    else if prgStart > img.length then .error .truncatedTrainer
    else if chrStart > img.length then .error .truncatedPrg
    else if chrStart + header.chrLength > img.length then .error .truncatedChr
    else
      .ok { header,
            prg := Memory.ofBytes 0 ((img.drop prgStart).take header.prgLength),
            chr := Memory.ofBytes 0 ((img.drop chrStart).take header.chrLength) }

end Sys2Proof.Machine
end

