-- ==== Sys2Proof/Machine/HostOps.lean ====
section
/-! DEFINITION. The host's operations beside `step()` (70_reset_and_hazards.md R196): construction,
reset, what a step reports, the end of a run, and the read accessors. -/

namespace Sys2Proof.Machine

/-- The result of `new` (70_reset_and_hazards.md R190). -/
inductive Launch where
  /-- A CPU. -/
  | ready (s : State)
  /-- The image is no cartridge image (20_memory.md R52). -/
  | formatError (e : FormatError)
  /-- A well-formed image whose PRG bank count is neither 1 nor 2: the launch is refused, which is not one
  of the spec's errors (92_eei_decisions.md D12). -/
  | refused (prgBanks : Byte)
  deriving DecidableEq, Repr

/-- The state a cartridge is constructed into: registers zeroed, HALT none, RAM the parameter `RAM_INIT`
(70_reset_and_hazards.md R190). PC is 0x0000 until `reset()`. -/
def constructed (cart : Cartridge) (ramInit : Vector Byte 2048) : State :=
  { a := 0x00, x := 0x00, y := 0x00, sp := 0x00, p := 0x00, pc := 0x0000, halt := none,
    ram := Memory.ofBytes 0 ramInit.toList, cart }

/-- `new(IMAGE)` (70_reset_and_hazards.md R190), with the parameter `RAM_INIT` (00_scope.md R6). -/
def newCpu (image : List Byte) (ramInit : Vector Byte 2048 := Config.ramInit) : Launch :=
  match parse image with
  | .error e => .formatError e
  | .ok cart =>
    if cart.header.prgBanks = 1 ∨ cart.header.prgBanks = 2 then .ready (constructed cart ramInit)
    else .refused cart.header.prgBanks

/-- `reset()` (70_reset_and_hazards.md R191): PC from the reset vector, nothing else; nothing at all on a
halted machine (60_exceptions.md R175). -/
def hostReset (s : State) : State :=
  match s.halt with
  | some _ => s
  | none => s.setPc (loadw s Config.resetVector)

/-- What a call of `step()` reports to the host: none for ok, else the error record
(70_reset_and_hazards.md R194, R196). -/
def stepReport (s : State) : Option ErrorRecord :=
  match step s with
  | .next t => t.halt
  | .fault _ | .refused _ => none

/-- The two ends of a run (70_reset_and_hazards.md R198): the host calls `step()` until a call reports an
error, and at most `n` times. -/
def hostRun : (n : Nat) → State → State
  | 0, s => s
  | n + 1, s =>
    match step s with
    | .next t => if t.halt.isSome then t else hostRun n t
    | .fault _ | .refused _ => s

/-- The six registers as the register accessor returns them (70_reset_and_hazards.md R197). -/
structure Registers where
  a : Byte
  x : Byte
  y : Byte
  sp : Byte
  p : Byte
  pc : Addr
  deriving DecidableEq, Repr

/-- The register accessor (70_reset_and_hazards.md R197). -/
def readRegisters (s : State) : Registers :=
  { a := s.a, x := s.x, y := s.y, sp := s.sp, p := s.p, pc := s.pc }

/-- The memory accessor: the byte the bus would return (70_reset_and_hazards.md R197). -/
def readMemory (s : State) (addr : Addr) : Byte := loadb s addr

end Sys2Proof.Machine
end

