-- ==== Sys2Proof/Safety.lean ====
section
/-! DEFINITION. What is safe, and the words the statements are written in: the invariant of the machine,
the view of it through the bus, and the effects of instructions in numbers, apart from the definitions
the meanings use. -/

namespace Sys2Proof.Machine

/-! ## The invariant -/

/-- A cartridge `new` accepts (20_memory.md R50, R51; 70_reset_and_hazards.md R190): the magic, one or
two PRG banks, and PRG and CHR in canonical form within the sizes the header gives. -/
structure CartWf (c : Cartridge) : Prop where
  magic : c.header.magic = Config.magic
  banks : c.header.prgBanks = 1 ∨ c.header.prgBanks = 2
  prgWf : c.prg.wf = true
  prgBound : c.prg.below c.header.prgLength = true
  chrWf : c.chr.wf = true
  chrBound : c.chr.below c.header.chrLength = true

/-- A halted machine's record names an illegal opcode, the address PC still holds and the byte the bus
reads there (60_exceptions.md R171, R174). -/
def HaltSound (s : State) : Prop :=
  ∀ r, s.halt = some r →
    r.kind = .illegalOpcode ∧ r.addr = s.pc ∧ r.opcode = loadb s s.pc ∧ (lookup r.opcode).isNone = true

/-- The invariant of the machine: canonical memories, a cartridge `new` accepts, S zero (10_state.md R14),
P's bits 2 to 7 zero (10_state.md R17), and a sound HALT record. -/
structure Inv (s : State) : Prop where
  ramWf : s.ram.wf = true
  ramBound : s.ram.below Config.ramSize = true
  cart : CartWf s.cart
  sp : s.sp = 0x00
  p : s.p &&& 0xFC = 0x00
  halt : HaltSound s

/-- A safe machine is one a step always carries on: it answers a next state, never a fault or a refusal
(70_reset_and_hazards.md R195). -/
def Safe (s : State) : Prop := ∃ t, step s = .next t

/-! ## The view through the bus -/

/-- Two machines the host and the program see alike: the registers, HALT, and what the bus reads at every
address (70_reset_and_hazards.md R196, R197). CHR, the header and how memory is held are not seen. -/
structure SameView (s t : State) : Prop where
  a : s.a = t.a
  x : s.x = t.x
  y : s.y = t.y
  sp : s.sp = t.sp
  p : s.p = t.p
  pc : s.pc = t.pc
  halt : s.halt = t.halt
  bus : ∀ addr, loadb s addr = loadb t addr

/-- Both addresses are in RAM and name one RAM byte (20_memory.md R30, R34). -/
abbrev SameRamByte (ea addr : Addr) : Prop :=
  ea.toNat ≤ 0x1FFF ∧ addr.toNat ≤ 0x1FFF ∧ ea.toNat % 0x800 = addr.toNat % 0x800

/-- Every flag but the listed ones is as it was. -/
def FlagsKeptBut (changed : List Flag) (s t : State) : Prop := ∀ f, f ∉ changed → t.flag f = s.flag f

/-! ## Running one instruction -/

/-- The instruction has this opcode byte, and from `s` it answers a next state of which `after` holds. -/
def RunsAs (opcode : Byte) (i : Instr) (s : State) (after : State → Prop) : Prop :=
  (encode i).head? = some opcode ∧ ∃ t, exec i s = .next t ∧ after t

/-- PC after an instruction of `len` bytes (10_state.md R18). -/
def past (s : State) (len : Nat) : Addr := s.pc + BitVec.ofNat 16 len

/-- After ADC of `v` (41_arith_adc_sbc.md R100). -/
structure Added (s : State) (v : Byte) (len : Nat) (t : State) : Prop where
  frame : t = { s with a := t.a, p := t.p, pc := past s len }
  value : t.a.toNat = (s.a.toNat + v.toNat + (s.flag .c).toNat) % 256
  carry : t.flag .c = true ↔ 256 ≤ s.a.toNat + v.toNat + (s.flag .c).toNat
  flags : FlagsKeptBut [.c] s t

/-- After SBC of `v` (41_arith_adc_sbc.md R101). -/
structure Subtracted (s : State) (v : Byte) (len : Nat) (t : State) : Prop where
  frame : t = { s with a := t.a, p := t.p, pc := past s len }
  value : (t.a.toNat : Int) = ((s.a.toNat : Int) - v.toNat - (s.flag .c).toNat) % 256
  borrow : t.flag .c = true ↔ s.a.toNat < v.toNat + (s.flag .c).toNat
  flags : FlagsKeptBut [.c] s t

/-- After a compare of `reg` with `v` (43_compare.md). -/
structure ComparedTo (reg : Byte) (s : State) (v : Byte) (len : Nat) (t : State) : Prop where
  frame : t = { s with p := t.p, pc := past s len }
  carry : t.flag .c = true ↔ v.toNat ≤ reg.toNat
  zero : t.flag .z = true ↔ reg = v
  flags : FlagsKeptBut [.c, .z] s t

/-- The next state differs in A and PC alone. -/
def OnlyA (s : State) (v : Byte) (len : Nat) (t : State) : Prop := t = { s with a := v, pc := past s len }

/-- The next state differs in X and PC alone. -/
def OnlyX (s : State) (v : Byte) (len : Nat) (t : State) : Prop := t = { s with x := v, pc := past s len }

/-- The next state differs in Y and PC alone. -/
def OnlyY (s : State) (v : Byte) (len : Nat) (t : State) : Prop := t = { s with y := v, pc := past s len }

/-- After a shift or rotate of A: `value` and `carry` give the result and the bit shifted off from the old
byte (42_logic_shift.md). -/
structure ShiftedA (s : State) (value : Nat → Nat) (carry : Nat → Prop) (t : State) : Prop where
  frame : t = { s with a := t.a, p := t.p, pc := past s 1 }
  value : t.a.toNat = value s.a.toNat
  carry : t.flag .c = true ↔ carry s.a.toNat
  flags : FlagsKeptBut [.c] s t

/-- After a shift or rotate of the byte at `ea` (42_logic_shift.md): written back to the same address,
where that is RAM, and no other byte changed. -/
structure ShiftedAt (s : State) (ea : Addr) (value : Nat → Nat) (carry : Nat → Prop) (len : Nat)
    (t : State) : Prop where
  frame : t = { s with ram := t.ram, p := t.p, pc := past s len }
  bytes : ∀ addr, (loadb t addr).toNat =
    if SameRamByte ea addr then value (loadb s ea).toNat else (loadb s addr).toNat
  discarded : 0x2000 ≤ ea.toNat → t.ram = s.ram
  carry : t.flag .c = true ↔ carry (loadb s ea).toNat
  flags : FlagsKeptBut [.c] s t

/-- After a store of `v` at `ea` (44_load_store.md section 2). -/
structure Stored (s : State) (ea : Addr) (v : Byte) (len : Nat) (t : State) : Prop where
  frame : t = { s with ram := t.ram, pc := past s len }
  bytes : ∀ addr, loadb t addr = if SameRamByte ea addr then v else loadb s addr
  discarded : 0x2000 ≤ ea.toNat → t.ram = s.ram

/-- After a branch (45_control.md R140). -/
structure Branched (s : State) (offset : Byte) (taken : Bool) (t : State) : Prop where
  frame : t = { s with pc := t.pc }
  target : t.pc.toNat =
    if taken then (s.pc.toNat + 2 + offset.toNat) % 65536 else (s.pc.toNat + 2) % 65536

/-! ## The writers of each register, and where stores go -/

/-- The instructions that write A (10_state.md R11): the shifts only in accumulator mode. -/
def writesA (i : Instr) : Bool :=
  [Mnemonic.adc, .sbc, .and, .ora, .eor, .lda].contains i.mnemonic || i.mode == .acc

/-- The instructions that write X (10_state.md R12). -/
def writesX (i : Instr) : Bool := [Mnemonic.ldx, .inx, .dex].contains i.mnemonic

/-- The instructions that write Y (10_state.md R13). -/
def writesY (i : Instr) : Bool := [Mnemonic.ldy, .iny, .dey].contains i.mnemonic

/-- The instructions that write each flag (10_state.md R15). -/
def Flag.writers : Flag → List Mnemonic
  | .c => [.adc, .sbc, .asl, .lsr, .rol, .ror, .cmp, .cpx, .cpy]
  | .z => [.cmp, .cpx, .cpy]
  | .i | .d | .b4 | .b5 | .v | .n => []

/-- The address an instruction stores to, none for a form that stores nothing (40_addressing.md R85 to
R90): STA, STX, STY, and the shifts and rotates in a memory mode. -/
def storeEa (i : Instr) (s : State) : Option Addr :=
  match i with
  | .aslZp nn | .lsrZp nn | .rolZp nn | .rorZp nn | .staZp nn | .stxZp nn | .styZp nn =>
    some (eaZeroPage nn)
  | .aslZpx nn | .lsrZpx nn | .rolZpx nn | .rorZpx nn | .staZpx nn | .styZpx nn =>
    some (eaZeroPageIndexed nn s.x)
  | .aslAbs addr | .lsrAbs addr | .rolAbs addr | .rorAbs addr | .staAbs addr | .stxAbs addr | .styAbs addr =>
    some addr
  | .aslAbsx addr | .lsrAbsx addr | .rolAbsx addr | .rorAbsx addr | .staAbsx addr =>
    some (eaAbsoluteIndexed addr s.x)
  | .staAbsy addr =>
    some (eaAbsoluteIndexed addr s.y)
  | .stxZpy nn =>
    some (eaZeroPageIndexed nn s.y)
  | _ => none

/-! ## Illegal bytes -/

/-- The 153 opcode bytes without a table entry, as 30_encoding.md R66 lists them. -/
def illegalBytes : List Byte :=
  [ 0x00, 0x01, 0x02, 0x03, 0x04, 0x07, 0x08, 0x0B, 0x0C, 0x0F,
    0x11, 0x12, 0x13, 0x14, 0x17, 0x18, 0x1A, 0x1B, 0x1C, 0x1F,
    0x20, 0x21, 0x22, 0x23, 0x24, 0x27, 0x28, 0x2B, 0x2C, 0x2F,
    0x31, 0x32, 0x33, 0x34, 0x37, 0x38, 0x3A, 0x3B, 0x3C, 0x3F,
    0x40, 0x41, 0x42, 0x43, 0x44, 0x47, 0x48, 0x4B, 0x4F,
    0x51, 0x52, 0x53, 0x54, 0x57, 0x58, 0x5A, 0x5B, 0x5C, 0x5F,
    0x60, 0x61, 0x62, 0x63, 0x64, 0x67, 0x68, 0x6B, 0x6C, 0x6F,
    0x71, 0x72, 0x73, 0x74, 0x77, 0x78, 0x7A, 0x7B, 0x7C, 0x7F,
    0x80, 0x81, 0x82, 0x83, 0x87, 0x89, 0x8A, 0x8B, 0x8F,
    0x91, 0x92, 0x93, 0x97, 0x98, 0x9A, 0x9B, 0x9C, 0x9E, 0x9F,
    0xA1, 0xA3, 0xA7, 0xA8, 0xAA, 0xAB, 0xAF,
    0xB1, 0xB2, 0xB3, 0xB7, 0xB8, 0xBA, 0xBB, 0xBF,
    0xC1, 0xC2, 0xC3, 0xC6, 0xC7, 0xCB, 0xCE, 0xCF,
    0xD1, 0xD2, 0xD3, 0xD4, 0xD6, 0xD7, 0xD8, 0xDA, 0xDB, 0xDC, 0xDE, 0xDF,
    0xE1, 0xE2, 0xE3, 0xE6, 0xE7, 0xEB, 0xEE, 0xEF,
    0xF1, 0xF2, 0xF3, 0xF4, 0xF6, 0xF7, 0xF8, 0xFA, 0xFB, 0xFC, 0xFE, 0xFF ]

end Sys2Proof.Machine
end

