-- ==== Sys2Proof/Certificates/Slice0/Obligations.lean ====
section
/-! DEFINITION. The statements for the provers. -/

open Sys2Proof Sys2Proof.Machine

/-- For every instruction i (each of the 103 forms, every operand value) and every byte sequence rest,
decode (encode i ++ rest) is i with rest left over. (30_encoding.md sections 1, 2 and 4.) -/
def Obligations.DecodeOfEncodeGivesTheInstruction : Prop :=
  ∀ (i : Instr) (rest : List Byte), decode (encode i ++ rest) = .ok (i, rest)

/-- For every byte sequence, if it decodes to an instruction i with rest left over, the sequence is encode i
followed by rest: no bit of an encoding is dropped and each word has one meaning. (30_encoding.md
sections 1, 2 and 4.) -/
def Obligations.EncodeOfDecodeGivesTheBytes : Prop :=
  ∀ (bytes : List Byte) (i : Instr) (rest : List Byte),
    decode bytes = .ok (i, rest) → encode i ++ rest = bytes

/-- An opcode byte has no entry in the decoder's table exactly where it stands in the list of 153 illegal
bytes of 30_encoding.md section 5. The byte values are the spec's general knowledge
(93_implementation_defined.md GK1). (30_encoding.md section 5.) -/
def Obligations.IllegalBytesAreTheListedOnes : Prop :=
  ∀ op : Byte, (lookup op).isNone = true ↔ op ∈ illegalBytes

/-- E8 is INX, 0A is ASL A, A9 10 is LDA #$10, F0 08 is BEQ +8, 85 10 is STA $10, B5 10 is LDA $10,X, B6 10
is LDX $10,Y, 4C 04 80 is JMP $8004, BD 00 02 is LDA $0200,X, 99 00 0A is STA $0A00,Y, C9 06 is CMP
#$06, E9 03 is SBC #$03 and 29 3C is AND #$3C. The byte values are the spec's general knowledge
(93_implementation_defined.md GK1). (30_encoding.md section 6, 95_test_vectors.md part 3,
42_logic_shift.md section 1 (the worked example of AND), 93_implementation_defined.md GK1.) -/
def Obligations.WordsOfTheSpecDecode : Prop :=
  decode [0xE8] = .ok (.inx, []) ∧ decode [0x0A] = .ok (.aslAcc, []) ∧
    decode [0xA9, 0x10] = .ok (.ldaImm 0x10, []) ∧ decode [0xF0, 0x08] = .ok (.beq 0x08, []) ∧
    decode [0x85, 0x10] = .ok (.staZp 0x10, []) ∧ decode [0xB5, 0x10] = .ok (.ldaZpx 0x10, []) ∧
    decode [0xB6, 0x10] = .ok (.ldxZpy 0x10, []) ∧ decode [0x4C, 0x04, 0x80] = .ok (.jmp 0x8004, []) ∧
    decode [0xBD, 0x00, 0x02] = .ok (.ldaAbsx 0x0200, []) ∧
    decode [0x99, 0x00, 0x0A] = .ok (.staAbsy 0x0A00, []) ∧
    decode [0xC9, 0x06] = .ok (.cmpImm 0x06, []) ∧ decode [0xE9, 0x03] = .ok (.sbcImm 0x03, []) ∧
    decode [0x29, 0x3C] = .ok (.andImm 0x3C, [])

/-- If two byte sequences with the same first byte both decode, the instructions read have the same length
in bytes, which is 1 plus the operand width of the mode, and that many bytes are taken from each.
(30_encoding.md section 1 (length and format).) -/
def Obligations.LengthDependsOnTheOpcodeAlone : Prop :=
  ∀ (op : Byte) (bs bs' : List Byte) (i i' : Instr) (rest rest' : List Byte),
    decode (op :: bs) = .ok (i, rest) → decode (op :: bs') = .ok (i', rest') →
    i.length = i'.length ∧ i.length = 1 + i.mode.operandWidth ∧
      (op :: bs).length = i.length + rest.length ∧ (op :: bs').length = i'.length + rest'.length

/-- For every state and 16-bit address: up to 0x1FFF a load gives the RAM byte at the address's low eleven
bits, from 0x2000 to 0x7FFF it gives 0x00, and from 0x8000 it gives what the PRG window reads. A load
returns a byte and no state, so it changes none. (R31.) -/
def Obligations.LoadReadsItsRegion : Prop :=
  ∀ (s : State) (addr : Addr),
    (addr.toNat ≤ 0x1FFF → loadb s addr = s.ram.read (addr.toNat % 0x800)) ∧
    (0x2000 ≤ addr.toNat → addr.toNat ≤ 0x7FFF → loadb s addr = 0x00) ∧
    (0x8000 ≤ addr.toNat → loadb s addr = prgRead s.cart addr)

/-- For every state, address and byte: after a store every address naming the same RAM byte reads the byte
stored and every other address reads as before; every register, HALT and the cartridge are unchanged; a
store outside RAM leaves the whole state as it was. (R32.) -/
def Obligations.StoreWritesAtMostOneRamByte : Prop :=
  ∀ (s : State) (ea : Addr) (v : Byte),
    storeb s ea v = { s with ram := (storeb s ea v).ram } ∧
    (∀ addr, loadb (storeb s ea v) addr = if SameRamByte ea addr then v else loadb s addr) ∧
    (0x2000 ≤ ea.toNat → storeb s ea v = s)

/-- For every a below 0x800 and j, k in 0 to 3, a byte stored at a + j*0x800 is read back at a + k*0x800,
and before any store both addresses read the same byte; an address below 0x100 reads the RAM byte of
that index. (R34.) -/
def Obligations.RamIsMirroredFourTimes : Prop :=
  ∀ (s : State) (a j k : Nat) (v : Byte), a < 0x800 → j < 4 → k < 4 →
    loadb (storeb s (BitVec.ofNat 16 (a + j * 0x800)) v) (BitVec.ofNat 16 (a + k * 0x800)) = v ∧
    loadb s (BitVec.ofNat 16 (a + j * 0x800)) = loadb s (BitVec.ofNat 16 (a + k * 0x800)) ∧
    (a < 0x100 → loadb s (BitVec.ofNat 16 a) = s.ram.read a)

/-- With one PRG bank, for every i below 0x4000 the addresses 0x8000 + i and 0xC000 + i both read PRG byte
i; with two banks, for every i below 0x8000 the address 0x8000 + i reads PRG byte i. Rests on the spec's
decision D12 for two banks. (20_memory.md section A.1 (PRG reads), 92_eei_decisions.md D12.) -/
def Obligations.PrgIsMirroredOrLinear : Prop :=
  ∀ (s : State) (i : Nat),
    (s.cart.header.prgBanks = 1 → i < 0x4000 →
      loadb s (BitVec.ofNat 16 (0x8000 + i)) = s.cart.prg.read i ∧
      loadb s (BitVec.ofNat 16 (0xC000 + i)) = s.cart.prg.read i) ∧
    (s.cart.header.prgBanks = 2 → i < 0x8000 →
      loadb s (BitVec.ofNat 16 (0x8000 + i)) = s.cart.prg.read i)

/-- For every state and address, loadw gives the byte at the address plus 256 times the byte at the next
address modulo 65536; a storew to two different RAM bytes is read back by loadw, and storew changes
nothing but RAM. The wrap rests on the spec's decision D8. (20_memory.md section A.2,
92_eei_decisions.md D8.) -/
def Obligations.WordsAreLittleEndian : Prop :=
  ∀ (s : State) (addr w : Addr),
    (loadw s addr).toNat =
      (loadb s addr).toNat + 256 * (loadb s (BitVec.ofNat 16 ((addr.toNat + 1) % 65536))).toNat ∧
    (addr.toNat < 0x1FFF → loadw (storew s addr w) addr = w) ∧
    storew s addr w = { s with ram := (storew s addr w).ram }

/-- ZP names the operand byte, ZPX and ZPY the sum of operand byte and index modulo 256, ABSX and ABSY the
sum of operand word and index modulo 65536. Rests on the spec's decisions D8 and D25. (40_addressing.md
section 2, 92_eei_decisions.md D8, D25.) -/
def Obligations.EffectiveAddressesAreModular : Prop :=
  ∀ (nn index : Byte) (addr : Addr),
    (eaZeroPage nn).toNat = nn.toNat ∧
    (eaZeroPageIndexed nn index).toNat = (nn.toNat + index.toNat) % 256 ∧
    (eaAbsoluteIndexed addr index).toNat = (addr.toNat + index.toNat) % 65536

/-- C, Z, I, D, B4, B5, V, N are bits 0 to 7 of P in this order: each flag reads true exactly where that bit
is 1, its mask is 2 to that bit number, and writing a flag changes that bit of P and no other, and
nothing else. Rests on the spec's decision D6. (10_state.md section 3, 92_eei_decisions.md D6.) -/
def Obligations.FlagTestIsNonZeroUnderTheMask : Prop :=
  ∀ (s : State) (b : Bool),
    [Flag.c, .z, .i, .d, .b4, .b5, .v, .n].map Flag.bit = [0, 1, 2, 3, 4, 5, 6, 7] ∧
    ∀ f : Flag, s.flag f = s.p.getLsbD f.bit ∧ f.mask.toNat = 2 ^ f.bit ∧
      s.setFlag f b = { s with p := (s.setFlag f b).p } ∧ (s.setFlag f b).flag f = b ∧
      FlagsKeptBut [f] s (s.setFlag f b)

/-- An image fails to parse exactly where it has fewer than 16 bytes, or does not start with 4E 45 53 1A, or
is shorter than 16 bytes plus the trainer (512 bytes where bit 2 of byte 6 is set) plus byte 4 times
16384 plus byte 5 times 8192. No other byte matters and trailing bytes are allowed. Rests on the spec's
decision D14. (20_memory.md section B.2, 92_eei_decisions.md D14.) -/
def Obligations.ParserFailsExactlyOnBadOrShortImages : Prop :=
  ∀ img : List Byte,
    (∃ e, parse img = .error e) ↔
      img.length < 16 ∨ img.take 4 ≠ [0x4E, 0x45, 0x53, 0x1A] ∨
        img.length < 16 + (if (img.getD 6 0).getLsbD 2 then 512 else 0) + (img.getD 4 0).toNat * 16384
          + (img.getD 5 0).toNat * 8192

/-- Where an image parses, the header is its first 16 bytes, PRG byte k is the image byte at 16 plus the
trainer plus k, and CHR byte k the one after all PRG bytes, for every k within the sizes bytes 4 and 5
give. (20_memory.md sections B.1 and B.2, 92_eei_decisions.md D14.) -/
def Obligations.ParsedCartridgeHoldsTheImage : Prop :=
  ∀ (img : List Byte) (c : Cartridge), parse img = .ok c →
    c.header.bytes = img.take 16 ∧
    (∀ k, k < (img.getD 4 0).toNat * 16384 →
      c.prg.read k = img.getD (16 + (if (img.getD 6 0).getLsbD 2 then 512 else 0) + k) 0) ∧
    (∀ k, k < (img.getD 5 0).toNat * 8192 →
      c.chr.read k = img.getD (16 + (if (img.getD 6 0).getLsbD 2 then 512 else 0)
        + (img.getD 4 0).toNat * 16384 + k) 0)

/-- Where an image parses with one or two PRG banks, new gives a CPU with A, X, Y, S, P 0x00, PC 0x0000,
HALT none, the parsed cartridge, and RAM byte k equal to byte k of RAM_INIT; with any other bank count
new is refused with that count; where the image does not parse, new gives FormatError with the parser's
answer. That other bank counts are refused and what RAM holds are the spec's decisions D12 and D13; that
the refusal carries the count and FormatError the check that failed is the model's choice, log entries
10 and 9. (70_reset_and_hazards.md section 1, 92_eei_decisions.md D12, D13.) -/
def Obligations.NewZeroesRegistersAndTakesRamInit : Prop :=
  ∀ (img : List Byte) (ramInit : Vector Byte 2048),
    (∀ c, parse img = .ok c → c.header.prgBanks = 1 ∨ c.header.prgBanks = 2 →
      ∃ s, newCpu img ramInit = .ready s ∧
        s = { a := 0x00, x := 0x00, y := 0x00, sp := 0x00, p := 0x00, pc := 0x0000, halt := none,
              ram := s.ram, cart := c } ∧
        ∀ (k : Nat) (h : k < 2048), s.ram.read k = ramInit[k]) ∧
    (∀ c, parse img = .ok c → c.header.prgBanks ≠ 1 → c.header.prgBanks ≠ 2 →
      newCpu img ramInit = .refused c.header.prgBanks) ∧
    (∀ e, parse img = .error e → newCpu img ramInit = .formatError e)

/-- On a running machine reset() gives the same state but for PC, which is the byte at 0xFFFC plus 256 times
the byte at 0xFFFD; on a halted machine reset() changes nothing, which is the spec's decision D10
(60_exceptions.md R175). (70_reset_and_hazards.md section 2, 60_exceptions.md section 2,
92_eei_decisions.md D10.) -/
def Obligations.ResetReloadsOnlyThePc : Prop :=
  ∀ s : State,
    (s.halt = none →
      hostReset s = { s with pc := (hostReset s).pc } ∧
      (hostReset s).pc.toNat = (loadb s 0xFFFC).toNat + 256 * (loadb s 0xFFFD).toNat) ∧
    (s.halt ≠ none → hostReset s = s)

/-- For every state s and every number of steps, if the steps from s answer a state t that is running, then
reset() from t and reset() from s give the same PC. (70_reset_and_hazards.md section 2.) -/
def Obligations.ResetVectorNeverChanges : Prop :=
  ∀ (s t : State) (k : Nat), Host.Core.run Sys2Proof.core k s = .next t → t.halt = none →
    (hostReset t).pc = (hostReset s).pc

/-- The image 4E 45 53 1A 01 and eleven 00 bytes, then 16384 bytes of 00, is accepted by new with the
default RAM_INIT, and reset() on the CPU it gives is State.reset. The image and RAM_INIT are the model's
choice: log entries 1 and 2. (10_state.md section 7, 70_reset_and_hazards.md sections 1 and 2.) -/
def Obligations.ResetStateIsNewThenResetOnTheBlankImage : Prop :=
  ∃ s, newCpu ([0x4E, 0x45, 0x53, 0x1A, 0x01, 0x00, 0x00, 0x00, 0x00, 0x00, 0x00, 0x00, 0x00, 0x00, 0x00, 0x00]
        ++ List.replicate 16384 0x00) = .ready s ∧
      hostReset s = State.reset

/-- State.reset meets Inv: canonical memories within their sizes, a cartridge new accepts, S zero, bits 2 to
7 of P zero, a sound HALT. The cartridge and RAM of State.reset are the model's choice: log entries 1
and 2. (10_state.md section 7.) -/
def Obligations.ResetStateMeetsTheInvariant : Prop :=
  Inv State.reset

/-- For every image and every RAM_INIT, if new gives a CPU, its state meets Inv; and reset() keeps Inv from
every state that meets it. (70_reset_and_hazards.md section 1, 10_state.md section 7.) -/
def Obligations.NewCpuMeetsTheInvariant : Prop :=
  (∀ (img : List Byte) (ramInit : Vector Byte 2048) (s : State), newCpu img ramInit = .ready s → Inv s) ∧
    (∀ s : State, Inv s → Inv (hostReset s))

/-- For every state: a halted machine answers itself and reports its record; on a running machine the three
bytes from PC (addresses modulo 65536) never decode as truncated; where their first byte is illegal the
step answers the same state with HALT set to (IllegalOpcode, PC, that byte) and reports it; where they
decode to i, the step is exec of i on the same state (exec itself moves PC past the opcode and the
operand bytes: log entry 6; a failing step is a next state: log entry 4). (70_reset_and_hazards.md
section 4, 60_exceptions.md section 2.) -/
def Obligations.StepRunsTheDecodedInstruction : Prop :=
  ∀ s : State,
    (∀ r, s.halt = some r → step s = .next s ∧ stepReport s = some r) ∧
    decode [loadb s s.pc, loadb s (s.pc + 1), loadb s (s.pc + 2)] ≠ .error .truncated ∧
    (∀ op, s.halt = none →
      decode [loadb s s.pc, loadb s (s.pc + 1), loadb s (s.pc + 2)] = .error (.illegalOpcode op) →
      step s = .next { s with halt := some ⟨.illegalOpcode, s.pc, op⟩ } ∧
      stepReport s = some ⟨.illegalOpcode, s.pc, op⟩) ∧
    (∀ i rest, s.halt = none →
      decode [loadb s s.pc, loadb s (s.pc + 1), loadb s (s.pc + 2)] = .ok (i, rest) →
      step s = exec i s)

/-- On a running machine whose byte at PC is one of the 153 illegal bytes, the step answers the same state
with HALT set to (IllegalOpcode, the PC at the call, that byte), every register and memory byte
unchanged, and reports that record. Rests on the spec's decision D9; that the outcome is a next state is
the model's convention, log entry 4. (60_exceptions.md sections 1 and 2, 92_eei_decisions.md D9.) -/
def Obligations.IllegalOpcodeHaltsInPlace : Prop :=
  ∀ s : State, s.halt = none → loadb s s.pc ∈ illegalBytes →
    step s = .next { s with halt := some ⟨.illegalOpcode, s.pc, loadb s s.pc⟩ } ∧
    stepReport s = some ⟨.illegalOpcode, s.pc, loadb s s.pc⟩

/-- For every state with HALT set to a record r and every k, k steps answer the same state, each step
reports r, and reset() changes nothing. Rests on the spec's decision D10; that a halted machine's step
answers a next state, with the record in its report, is the model's convention, log entry 4.
(60_exceptions.md section 2, 92_eei_decisions.md D10.) -/
def Obligations.HaltIsAbsorbing : Prop :=
  ∀ (s : State) (r : ErrorRecord) (k : Nat), s.halt = some r →
    Host.Core.run Sys2Proof.core k s = .next s ∧ stepReport s = some r ∧ hostReset s = s

/-- For every state, reachable or not, step answers a next state: never a fault and never a refusal; and so
does every instruction from every state. That a failing step and a step of a halted machine answer a
next state, where the spec's step returns an error record, is the model's convention, log entry 4.
(70_reset_and_hazards.md section 4, 20_memory.md section A.1 (total accesses).) -/
def Obligations.EveryStepAnswersANextState : Prop :=
  (∀ s : State, Safe s) ∧ ∀ (i : Instr) (s : State), ∃ t, exec i s = .next t

/-- From every state that meets Inv (canonical RAM, PRG and CHR within their sizes; magic and one or two PRG
banks; S zero; bits 2 to 7 of P zero; HALT none or an illegal-opcode record that names PC and the byte
there), a step that answers t gives a state that meets Inv. (10_state.md sections 2, 3 and 6,
20_memory.md part A, 60_exceptions.md section 2.) -/
def Obligations.StepKeepsTheInvariant : Prop :=
  ∀ s t : State, Inv s → step s = .next t → Inv t

/-- If a step answers t, either HALT is as it was, or the machine was running on an illegal byte and t is
the same state with HALT set to (IllegalOpcode, PC, that byte). No instruction changes HALT; a store
through an immediate operand, which no instruction makes, would set it to InvalidAddressingMode with the
PC the step began with and the byte the bus reads there. Rests on the spec's decisions D9 and D26; that
these outcomes are next states is the model's convention, log entry 4, and how the record gets its byte
log entry 7. (60_exceptions.md sections 1 and 2, 92_eei_decisions.md D9, D26.) -/
def Obligations.HaltIsSetOnlyByAnIllegalOpcode : Prop :=
  (∀ s t : State, step s = .next t →
      t.halt = s.halt ∨
        s.halt = none ∧ loadb s s.pc ∈ illegalBytes ∧
          t = { s with halt := some ⟨.illegalOpcode, s.pc, loadb s s.pc⟩ }) ∧
    (∀ (i : Instr) (s t : State), exec i s = .next t → t.halt = s.halt) ∧
    (∀ (s : State) (nn v : Byte), storeThrough (.imm nn) v s =
      .next { s with halt := some ⟨.invalidAddressingMode, s.pc, loadb s s.pc⟩ })

/-- If a step answers t, then the header, PRG and CHR of t are those of s, and S is as it was. (10_state.md
sections 2 and 6.) -/
def Obligations.StepTouchesNeitherCartridgeNorStackPointer : Prop :=
  ∀ s t : State, step s = .next t → t.cart = s.cart ∧ t.sp = s.sp

/-- If two states agree on every register, on HALT and on what the bus reads at every address, then their
steps answer states that agree so again (a failing step and a halted machine's step among them: log
entry 4). So no hidden state, CHR byte, uninterpreted header byte or way of holding memory can influence
a run. (10_state.md sections 5 and 6, 20_memory.md sections A.4 and B.2.) -/
def Obligations.StepDependsOnlyOnTheBusView : Prop :=
  ∀ s t : State, SameView s t →
    ∃ s' t', step s = .next s' ∧ step t = .next t' ∧ SameView s' t'

/-- If STA, STX or STY absolute answers t, and the address stored to and the PC of t name one RAM byte, then
the opcode byte fetched from t is the register stored. (20_memory.md section A.4.) -/
def Obligations.StoreIsSeenByTheNextFetch : Prop :=
  ∀ (s t : State) (addr : Addr), SameRamByte addr t.pc →
    (exec (.staAbs addr) s = .next t → (fetchByte t).1 = s.a) ∧
    (exec (.stxAbs addr) s = .next t → (fetchByte t).1 = s.x) ∧
    (exec (.styAbs addr) s = .next t → (fetchByte t).1 = s.y)

/-- Each form, with its opcode, answers a next state in which A is (A + v + C) mod 256, C is 1 exactly where
the sum is at least 256, every other flag is kept, PC is past the instruction and nothing else changed;
v is the immediate or the byte at the mode's address. That no other flag is written is the spec's
decision D3. (41_arith_adc_sbc.md (ADC), 92_eei_decisions.md D3.) -/
def Obligations.AdcAddsByteAndCarry : Prop :=
  ∀ (s : State) (nn : Byte) (addr : Addr),
    RunsAs 0x69 (.adcImm nn) s (Added s nn 2) ∧
    RunsAs 0x65 (.adcZp nn) s (Added s (loadb s (eaZeroPage nn)) 2) ∧
    RunsAs 0x75 (.adcZpx nn) s (Added s (loadb s (eaZeroPageIndexed nn s.x)) 2) ∧
    RunsAs 0x6D (.adcAbs addr) s (Added s (loadb s addr) 3) ∧
    RunsAs 0x7D (.adcAbsx addr) s (Added s (loadb s (eaAbsoluteIndexed addr s.x)) 3) ∧
    RunsAs 0x79 (.adcAbsy addr) s (Added s (loadb s (eaAbsoluteIndexed addr s.y)) 3)

/-- Each form, with its opcode, answers a next state in which A is (A - v - C) mod 256, C is 1 exactly where
A is less than v + C, every other flag is kept, PC is past the instruction and nothing else changed. The
formula is the spec's decision D7, the flags D3. (41_arith_adc_sbc.md (SBC), 92_eei_decisions.md D3,
D7.) -/
def Obligations.SbcSubtractsByteAndCarry : Prop :=
  ∀ (s : State) (nn : Byte) (addr : Addr),
    RunsAs 0xE9 (.sbcImm nn) s (Subtracted s nn 2) ∧
    RunsAs 0xE5 (.sbcZp nn) s (Subtracted s (loadb s (eaZeroPage nn)) 2) ∧
    RunsAs 0xF5 (.sbcZpx nn) s (Subtracted s (loadb s (eaZeroPageIndexed nn s.x)) 2) ∧
    RunsAs 0xED (.sbcAbs addr) s (Subtracted s (loadb s addr) 3) ∧
    RunsAs 0xFD (.sbcAbsx addr) s (Subtracted s (loadb s (eaAbsoluteIndexed addr s.x)) 3) ∧
    RunsAs 0xF9 (.sbcAbsy addr) s (Subtracted s (loadb s (eaAbsoluteIndexed addr s.y)) 3)

/-- Each form, with its opcode, answers the next state that differs from s only in A, which is the bitwise
AND of A and the byte, and in PC, which is past the instruction. That no flag is written is the spec's
decision D3. (42_logic_shift.md section 1 (AND), 92_eei_decisions.md D3.) -/
def Obligations.AndCombinesByteIntoA : Prop :=
  ∀ (s : State) (nn : Byte) (addr : Addr),
    RunsAs 0x29 (.andImm nn) s (OnlyA s (s.a &&& nn) 2) ∧
    RunsAs 0x25 (.andZp nn) s (OnlyA s (s.a &&& loadb s (eaZeroPage nn)) 2) ∧
    RunsAs 0x35 (.andZpx nn) s (OnlyA s (s.a &&& loadb s (eaZeroPageIndexed nn s.x)) 2) ∧
    RunsAs 0x2D (.andAbs addr) s (OnlyA s (s.a &&& loadb s addr) 3) ∧
    RunsAs 0x3D (.andAbsx addr) s (OnlyA s (s.a &&& loadb s (eaAbsoluteIndexed addr s.x)) 3) ∧
    RunsAs 0x39 (.andAbsy addr) s (OnlyA s (s.a &&& loadb s (eaAbsoluteIndexed addr s.y)) 3)

/-- Each form, with its opcode, answers the next state that differs from s only in A, which is the bitwise
OR of A and the byte, and in PC, which is past the instruction. That no flag is written is the spec's
decision D3. (42_logic_shift.md section 1 (ORA), 92_eei_decisions.md D3.) -/
def Obligations.OraCombinesByteIntoA : Prop :=
  ∀ (s : State) (nn : Byte) (addr : Addr),
    RunsAs 0x09 (.oraImm nn) s (OnlyA s (s.a ||| nn) 2) ∧
    RunsAs 0x05 (.oraZp nn) s (OnlyA s (s.a ||| loadb s (eaZeroPage nn)) 2) ∧
    RunsAs 0x15 (.oraZpx nn) s (OnlyA s (s.a ||| loadb s (eaZeroPageIndexed nn s.x)) 2) ∧
    RunsAs 0x0D (.oraAbs addr) s (OnlyA s (s.a ||| loadb s addr) 3) ∧
    RunsAs 0x1D (.oraAbsx addr) s (OnlyA s (s.a ||| loadb s (eaAbsoluteIndexed addr s.x)) 3) ∧
    RunsAs 0x19 (.oraAbsy addr) s (OnlyA s (s.a ||| loadb s (eaAbsoluteIndexed addr s.y)) 3)

/-- Each form, with its opcode, answers the next state that differs from s only in A, which is the bitwise
exclusive OR of A and the byte, and in PC, which is past the instruction. That no flag is written is the
spec's decision D3. (42_logic_shift.md section 1 (EOR), 92_eei_decisions.md D3.) -/
def Obligations.EorCombinesByteIntoA : Prop :=
  ∀ (s : State) (nn : Byte) (addr : Addr),
    RunsAs 0x49 (.eorImm nn) s (OnlyA s (s.a ^^^ nn) 2) ∧
    RunsAs 0x45 (.eorZp nn) s (OnlyA s (s.a ^^^ loadb s (eaZeroPage nn)) 2) ∧
    RunsAs 0x55 (.eorZpx nn) s (OnlyA s (s.a ^^^ loadb s (eaZeroPageIndexed nn s.x)) 2) ∧
    RunsAs 0x4D (.eorAbs addr) s (OnlyA s (s.a ^^^ loadb s addr) 3) ∧
    RunsAs 0x5D (.eorAbsx addr) s (OnlyA s (s.a ^^^ loadb s (eaAbsoluteIndexed addr s.x)) 3) ∧
    RunsAs 0x59 (.eorAbsy addr) s (OnlyA s (s.a ^^^ loadb s (eaAbsoluteIndexed addr s.y)) 3)

/-- Each form, with its opcode, answers a next state in which the place (A, or the byte at the mode's
address where that is RAM, through every mirror) holds twice the byte modulo 256, C is bit 7 of the
byte, every other flag is kept, PC is past the instruction once, and nothing else changed; outside RAM
the write-back is lost, RAM stays whole and Carry still changes. (R113.) -/
def Obligations.AslShiftsLeft : Prop :=
  ∀ (s : State) (nn : Byte) (addr : Addr),
    RunsAs 0x0A .aslAcc s (ShiftedA s (2 * · % 256) (128 ≤ ·)) ∧
    RunsAs 0x06 (.aslZp nn) s (ShiftedAt s (eaZeroPage nn) (2 * · % 256) (128 ≤ ·) 2) ∧
    RunsAs 0x16 (.aslZpx nn) s (ShiftedAt s (eaZeroPageIndexed nn s.x) (2 * · % 256) (128 ≤ ·) 2) ∧
    RunsAs 0x0E (.aslAbs addr) s (ShiftedAt s addr (2 * · % 256) (128 ≤ ·) 3) ∧
    RunsAs 0x1E (.aslAbsx addr) s (ShiftedAt s (eaAbsoluteIndexed addr s.x) (2 * · % 256) (128 ≤ ·) 3)

/-- Each form, with its opcode, answers a next state in which the place (A, or the byte at the mode's
address where that is RAM, through every mirror) holds half the byte, C is bit 0 of the byte, every
other flag is kept, PC is past the instruction once, and nothing else changed; outside RAM the write-
back is lost, RAM stays whole and Carry still changes. (R114.) -/
def Obligations.LsrShiftsRight : Prop :=
  ∀ (s : State) (nn : Byte) (addr : Addr),
    RunsAs 0x4A .lsrAcc s (ShiftedA s (· / 2) (· % 2 = 1)) ∧
    RunsAs 0x46 (.lsrZp nn) s (ShiftedAt s (eaZeroPage nn) (· / 2) (· % 2 = 1) 2) ∧
    RunsAs 0x56 (.lsrZpx nn) s (ShiftedAt s (eaZeroPageIndexed nn s.x) (· / 2) (· % 2 = 1) 2) ∧
    RunsAs 0x4E (.lsrAbs addr) s (ShiftedAt s addr (· / 2) (· % 2 = 1) 3) ∧
    RunsAs 0x5E (.lsrAbsx addr) s (ShiftedAt s (eaAbsoluteIndexed addr s.x) (· / 2) (· % 2 = 1) 3)

/-- Each form, with its opcode, answers a next state in which the place (A, or the byte at the mode's
address where that is RAM, through every mirror) holds twice the byte modulo 256 plus the old Carry, C
is bit 7 of the byte, every other flag is kept, PC is past the instruction once, and nothing else
changed; outside RAM the write-back is lost, RAM stays whole and Carry still changes. Nine rotates
restore the byte and Carry. (R115.) -/
def Obligations.RolRotatesLeftThroughCarry : Prop :=
  ∀ (s : State) (nn : Byte) (addr : Addr),
    RunsAs 0x2A .rolAcc s (ShiftedA s (2 * · % 256 + (s.flag .c).toNat) (128 ≤ ·)) ∧
    RunsAs 0x26 (.rolZp nn) s (ShiftedAt s (eaZeroPage nn) (2 * · % 256 + (s.flag .c).toNat) (128 ≤ ·) 2) ∧
    RunsAs 0x36 (.rolZpx nn) s (ShiftedAt s (eaZeroPageIndexed nn s.x) (2 * · % 256 + (s.flag .c).toNat) (128 ≤ ·) 2) ∧
    RunsAs 0x2E (.rolAbs addr) s (ShiftedAt s addr (2 * · % 256 + (s.flag .c).toNat) (128 ≤ ·) 3) ∧
    RunsAs 0x3E (.rolAbsx addr) s (ShiftedAt s (eaAbsoluteIndexed addr s.x) (2 * · % 256 + (s.flag .c).toNat) (128 ≤ ·) 3) ∧
    ∀ (v : Byte) (c : Bool), (fun r : Carried => rotateLeft r.value r.carry)^[9] ⟨v, c⟩ = ⟨v, c⟩

/-- Each form, with its opcode, answers a next state in which the place (A, or the byte at the mode's
address where that is RAM, through every mirror) holds half the byte plus 128 times the old Carry, C is
bit 0 of the byte, every other flag is kept, PC is past the instruction once, and nothing else changed;
outside RAM the write-back is lost, RAM stays whole and Carry still changes. (R116.) -/
def Obligations.RorRotatesRightThroughCarry : Prop :=
  ∀ (s : State) (nn : Byte) (addr : Addr),
    RunsAs 0x6A .rorAcc s (ShiftedA s (· / 2 + 128 * (s.flag .c).toNat) (· % 2 = 1)) ∧
    RunsAs 0x66 (.rorZp nn) s (ShiftedAt s (eaZeroPage nn) (· / 2 + 128 * (s.flag .c).toNat) (· % 2 = 1) 2) ∧
    RunsAs 0x76 (.rorZpx nn) s (ShiftedAt s (eaZeroPageIndexed nn s.x) (· / 2 + 128 * (s.flag .c).toNat) (· % 2 = 1) 2) ∧
    RunsAs 0x6E (.rorAbs addr) s (ShiftedAt s addr (· / 2 + 128 * (s.flag .c).toNat) (· % 2 = 1) 3) ∧
    RunsAs 0x7E (.rorAbsx addr) s (ShiftedAt s (eaAbsoluteIndexed addr s.x) (· / 2 + 128 * (s.flag .c).toNat) (· % 2 = 1) 3)

/-- Each form, with its opcode, answers a next state in which C is 1 exactly where A is at least v, Z is 1
exactly where A equals v, every other flag is kept, PC is past the instruction and nothing else changed,
A included. (R120.) -/
def Obligations.CmpComparesAWithByte : Prop :=
  ∀ (s : State) (nn : Byte) (addr : Addr),
    RunsAs 0xC9 (.cmpImm nn) s (ComparedTo s.a s nn 2) ∧
    RunsAs 0xC5 (.cmpZp nn) s (ComparedTo s.a s (loadb s (eaZeroPage nn)) 2) ∧
    RunsAs 0xD5 (.cmpZpx nn) s (ComparedTo s.a s (loadb s (eaZeroPageIndexed nn s.x)) 2) ∧
    RunsAs 0xCD (.cmpAbs addr) s (ComparedTo s.a s (loadb s addr) 3) ∧
    RunsAs 0xDD (.cmpAbsx addr) s (ComparedTo s.a s (loadb s (eaAbsoluteIndexed addr s.x)) 3) ∧
    RunsAs 0xD9 (.cmpAbsy addr) s (ComparedTo s.a s (loadb s (eaAbsoluteIndexed addr s.y)) 3)

/-- Each form, with its opcode, answers a next state in which C is 1 exactly where X is at least v, Z is 1
exactly where X equals v, every other flag is kept, PC is past the instruction and nothing else changed,
X included. (R121.) -/
def Obligations.CpxComparesXWithByte : Prop :=
  ∀ (s : State) (nn : Byte) (addr : Addr),
    RunsAs 0xE0 (.cpxImm nn) s (ComparedTo s.x s nn 2) ∧
    RunsAs 0xE4 (.cpxZp nn) s (ComparedTo s.x s (loadb s (eaZeroPage nn)) 2) ∧
    RunsAs 0xEC (.cpxAbs addr) s (ComparedTo s.x s (loadb s addr) 3)

/-- Each form, with its opcode, answers a next state in which C is 1 exactly where Y is at least v, Z is 1
exactly where Y equals v, every other flag is kept, PC is past the instruction and nothing else changed,
Y included. (R122.) -/
def Obligations.CpyComparesYWithByte : Prop :=
  ∀ (s : State) (nn : Byte) (addr : Addr),
    RunsAs 0xC0 (.cpyImm nn) s (ComparedTo s.y s nn 2) ∧
    RunsAs 0xC4 (.cpyZp nn) s (ComparedTo s.y s (loadb s (eaZeroPage nn)) 2) ∧
    RunsAs 0xCC (.cpyAbs addr) s (ComparedTo s.y s (loadb s addr) 3)

/-- Each form, with its opcode, answers the next state that differs from s only in A, which is the immediate
or the byte at the mode's address, and in PC, which is past the instruction. That no flag is written is
the spec's decision D3. (44_load_store.md section 1 (LDA), 92_eei_decisions.md D3.) -/
def Obligations.LdaLoadsA : Prop :=
  ∀ (s : State) (nn : Byte) (addr : Addr),
    RunsAs 0xA9 (.ldaImm nn) s (OnlyA s nn 2) ∧
    RunsAs 0xA5 (.ldaZp nn) s (OnlyA s (loadb s (eaZeroPage nn)) 2) ∧
    RunsAs 0xB5 (.ldaZpx nn) s (OnlyA s (loadb s (eaZeroPageIndexed nn s.x)) 2) ∧
    RunsAs 0xAD (.ldaAbs addr) s (OnlyA s (loadb s addr) 3) ∧
    RunsAs 0xBD (.ldaAbsx addr) s (OnlyA s (loadb s (eaAbsoluteIndexed addr s.x)) 3) ∧
    RunsAs 0xB9 (.ldaAbsy addr) s (OnlyA s (loadb s (eaAbsoluteIndexed addr s.y)) 3)

/-- Each form, with its opcode, answers the next state that differs from s only in X, which is the immediate
or the byte at the mode's address, and in PC, which is past the instruction. That no flag is written is
the spec's decision D3. (44_load_store.md section 1 (LDX), 92_eei_decisions.md D3.) -/
def Obligations.LdxLoadsX : Prop :=
  ∀ (s : State) (nn : Byte) (addr : Addr),
    RunsAs 0xA2 (.ldxImm nn) s (OnlyX s nn 2) ∧
    RunsAs 0xA6 (.ldxZp nn) s (OnlyX s (loadb s (eaZeroPage nn)) 2) ∧
    RunsAs 0xB6 (.ldxZpy nn) s (OnlyX s (loadb s (eaZeroPageIndexed nn s.y)) 2) ∧
    RunsAs 0xAE (.ldxAbs addr) s (OnlyX s (loadb s addr) 3) ∧
    RunsAs 0xBE (.ldxAbsy addr) s (OnlyX s (loadb s (eaAbsoluteIndexed addr s.y)) 3)

/-- Each form, with its opcode, answers the next state that differs from s only in Y, which is the immediate
or the byte at the mode's address, and in PC, which is past the instruction. That no flag is written is
the spec's decision D3. (44_load_store.md section 1 (LDY), 92_eei_decisions.md D3.) -/
def Obligations.LdyLoadsY : Prop :=
  ∀ (s : State) (nn : Byte) (addr : Addr),
    RunsAs 0xA0 (.ldyImm nn) s (OnlyY s nn 2) ∧
    RunsAs 0xA4 (.ldyZp nn) s (OnlyY s (loadb s (eaZeroPage nn)) 2) ∧
    RunsAs 0xB4 (.ldyZpx nn) s (OnlyY s (loadb s (eaZeroPageIndexed nn s.x)) 2) ∧
    RunsAs 0xAC (.ldyAbs addr) s (OnlyY s (loadb s addr) 3) ∧
    RunsAs 0xBC (.ldyAbsx addr) s (OnlyY s (loadb s (eaAbsoluteIndexed addr s.x)) 3)

/-- Each form, with its opcode, answers a next state in which every address naming the RAM byte at the
mode's address reads A and every other address reads as before (all of them where that address is not in
RAM), PC is past the instruction, and no register and no flag changed. (R133.) -/
def Obligations.StaStoresA : Prop :=
  ∀ (s : State) (nn : Byte) (addr : Addr),
    RunsAs 0x85 (.staZp nn) s (Stored s (eaZeroPage nn) s.a 2) ∧
    RunsAs 0x95 (.staZpx nn) s (Stored s (eaZeroPageIndexed nn s.x) s.a 2) ∧
    RunsAs 0x8D (.staAbs addr) s (Stored s addr s.a 3) ∧
    RunsAs 0x9D (.staAbsx addr) s (Stored s (eaAbsoluteIndexed addr s.x) s.a 3) ∧
    RunsAs 0x99 (.staAbsy addr) s (Stored s (eaAbsoluteIndexed addr s.y) s.a 3)

/-- Each form, with its opcode, answers a next state in which every address naming the RAM byte at the
mode's address reads X and every other address reads as before (all of them where that address is not in
RAM), PC is past the instruction, and no register and no flag changed. (R134.) -/
def Obligations.StxStoresX : Prop :=
  ∀ (s : State) (nn : Byte) (addr : Addr),
    RunsAs 0x86 (.stxZp nn) s (Stored s (eaZeroPage nn) s.x 2) ∧
    RunsAs 0x96 (.stxZpy nn) s (Stored s (eaZeroPageIndexed nn s.y) s.x 2) ∧
    RunsAs 0x8E (.stxAbs addr) s (Stored s addr s.x 3)

/-- Each form, with its opcode, answers a next state in which every address naming the RAM byte at the
mode's address reads Y and every other address reads as before (all of them where that address is not in
RAM), PC is past the instruction, and no register and no flag changed. (R135.) -/
def Obligations.StyStoresY : Prop :=
  ∀ (s : State) (nn : Byte) (addr : Addr),
    RunsAs 0x84 (.styZp nn) s (Stored s (eaZeroPage nn) s.y 2) ∧
    RunsAs 0x94 (.styZpx nn) s (Stored s (eaZeroPageIndexed nn s.x) s.y 2) ∧
    RunsAs 0x8C (.styAbs addr) s (Stored s addr s.y 3)

/-- NOP, opcode 0xEA, answers the next state that differs from s only in PC, which is past the one byte.
(R149.) -/
def Obligations.NopOnlyAdvancesPc : Prop :=
  ∀ s : State, RunsAs 0xEA .nop s (· = { s with pc := past s 1 })

/-- BPL, BMI, BVC, BVS, BCC, BCS, BNE, BEQ, with their opcodes, answer the next state that differs from s
only in PC: (PC + 2 + offset) mod 65536 where the flag (N, N, V, V, C, C, Z, Z) has the value (0, 1, 0,
1, 0, 1, 0, 1), else (PC + 2) mod 65536. Rests on the spec's decisions D5, D6, D8 and D19.
(45_control.md section 2, 92_eei_decisions.md D5, D6, D8, D19.) -/
def Obligations.BranchesGoForwardOnTheirFlag : Prop :=
  ∀ (s : State) (offset : Byte),
    RunsAs 0x10 (.bpl offset) s (Branched s offset (!s.flag .n)) ∧
    RunsAs 0x30 (.bmi offset) s (Branched s offset (s.flag .n)) ∧
    RunsAs 0x50 (.bvc offset) s (Branched s offset (!s.flag .v)) ∧
    RunsAs 0x70 (.bvs offset) s (Branched s offset (s.flag .v)) ∧
    RunsAs 0x90 (.bcc offset) s (Branched s offset (!s.flag .c)) ∧
    RunsAs 0xB0 (.bcs offset) s (Branched s offset (s.flag .c)) ∧
    RunsAs 0xD0 (.bne offset) s (Branched s offset (!s.flag .z)) ∧
    RunsAs 0xF0 (.beq offset) s (Branched s offset (s.flag .z))

/-- From every state that meets Inv, BPL and BVC answer the state with PC at (PC + 2 + offset) mod 65536,
and BMI and BVS the state with PC at (PC + 2) mod 65536, nothing else changed. (10_state.md section 3,
45_control.md section 2.) -/
def Obligations.BranchesOnUnwrittenFlagsAreFixed : Prop :=
  ∀ (s : State) (offset : Byte), Inv s →
    RunsAs 0x10 (.bpl offset) s (Branched s offset true) ∧
    RunsAs 0x50 (.bvc offset) s (Branched s offset true) ∧
    RunsAs 0x30 (.bmi offset) s (Branched s offset false) ∧
    RunsAs 0x70 (.bvs offset) s (Branched s offset false)

/-- JMP absolute, opcode 0x4C, is encoded as the opcode, the low byte and the high byte of its target, and
answers the next state that differs from s only in PC, which is the target, whatever it is; the indirect
opcode 0x6C is illegal. (R150.) -/
def Obligations.JmpReplacesPc : Prop :=
  ∀ (s : State) (target : Addr),
    RunsAs 0x4C (.jmp target) s (· = { s with pc := target }) ∧
    encode (.jmp target) = [0x4C, BitVec.ofNat 8 target.toNat, BitVec.ofNat 8 (target.toNat / 256)] ∧
    (lookup 0x6C).isNone = true

/-- Each, with its opcode, answers the next state that differs from s only in PC, which is past the one
byte, and in X or Y, which is plus one or minus one modulo 256. The write-back is the spec's decision
D4. (46_incdec.md, 92_eei_decisions.md D4.) -/
def Obligations.IndexCountsByOneModulo256 : Prop :=
  ∀ s : State,
    RunsAs 0xE8 .inx s (fun t =>
      t = { s with x := t.x, pc := past s 1 } ∧ t.x.toNat = (s.x.toNat + 1) % 256) ∧
    RunsAs 0xC8 .iny s (fun t =>
      t = { s with y := t.y, pc := past s 1 } ∧ t.y.toNat = (s.y.toNat + 1) % 256) ∧
    RunsAs 0xCA .dex s (fun t =>
      t = { s with x := t.x, pc := past s 1 } ∧ t.x.toNat = (s.x.toNat + 255) % 256) ∧
    RunsAs 0x88 .dey s (fun t =>
      t = { s with y := t.y, pc := past s 1 } ∧ t.y.toNat = (s.y.toNat + 255) % 256)

/-- If an instruction answers t: A is as it was unless it is ADC, SBC, AND, ORA, EOR, LDA or a shift or
rotate in accumulator mode; X unless it is LDX, INX or DEX; Y unless it is LDY, INY or DEY; S, HALT and
the cartridge always. (10_state.md sections 1 and 2.) -/
def Obligations.RegistersChangeOnlyByTheirWriters : Prop :=
  ∀ (i : Instr) (s t : State), exec i s = .next t →
    (writesA i = false → t.a = s.a) ∧ (writesX i = false → t.x = s.x) ∧
    (writesY i = false → t.y = s.y) ∧ t.sp = s.sp ∧ t.halt = s.halt ∧ t.cart = s.cart

/-- If an instruction answers t, each flag its mnemonic does not write is as it was: C is written by ADC,
SBC, ASL, LSR, ROL, ROR, CMP, CPX, CPY, Z by CMP, CPX, CPY, and I, D, B4, B5, V, N by none. Rests on the
spec's decision D3. (10_state.md section 3, 92_eei_decisions.md D3.) -/
def Obligations.FlagsChangeOnlyByTheirWriters : Prop :=
  ∀ (i : Instr) (s t : State) (f : Flag), exec i s = .next t →
    i.mnemonic ∉ f.writers → t.flag f = s.flag f

/-- For every instruction that answers t and every address: if no address the form stores to (the mode's
effective address for STA, STX, STY and the memory shifts, none for every other form) names the same RAM
byte, the address reads as before. A form that stores nothing keeps RAM whole. (20_memory.md sections
A.1 and A.3, 40_addressing.md section 2, 42_logic_shift.md section 2, 44_load_store.md section 2.) -/
def Obligations.MemoryChangesOnlyAtTheStoreAddress : Prop :=
  ∀ (i : Instr) (s t : State), exec i s = .next t →
    (∀ addr, (∀ ea, storeEa i s = some ea → ¬ SameRamByte ea addr) → loadb t addr = loadb s addr) ∧
    (storeEa i s = none → t.ram = s.ram)

/-- If an instruction whose mode is not REL and which is not JMP answers t, PC of t is (PC + 1 + operand
width of its mode) mod 65536. The wrap rests on the spec's decision D8. (10_state.md section 4,
92_eei_decisions.md D8.) -/
def Obligations.PcPassesTheInstruction : Prop :=
  ∀ (i : Instr) (s t : State), exec i s = .next t → i.mode ≠ .rel → i.mnemonic ≠ .jmp →
    t.pc.toNat = (s.pc.toNat + 1 + i.mode.operandWidth) % 65536
end

