-- ==== Sys2Proof/Laws/Memory.lean ====
section
/-! SUPPORT. The laws of canonical memories: what a read after a write gives, and that every operation
keeps the canonical form and the bound on indexes. -/

namespace Sys2Proof.Machine.Memory

theorem read_cons_ne {i j : Nat} (v : Byte) (m : Memory) (h : j ≠ i) : read (cons i v m) j = read m j := by
  unfold cons
  split
  · rfl
  · simp [read, h]

theorem read_cons_same {i : Nat} (v : Byte) {m : Memory} (h : read m i = unlisted) :
    read (cons i v m) i = v := by
  unfold cons
  split
  · rename_i hv
    rw [h, hv]
  · simp [read]

theorem read_insert_ne {i j : Nat} (m : Memory) (v : Byte) (h : j ≠ i) :
    read (insert m i v) j = read m j := by
  induction m with
  | nil => exact read_cons_ne v [] h
  | cons cell m ih =>
    obtain ⟨k, w⟩ := cell
    unfold insert
    split
    · exact read_cons_ne v _ h
    · simp [read, ih]

theorem read_insert_same {i : Nat} {m : Memory} (v : Byte) (h : ∀ cell ∈ m, cell.1 ≠ i) :
    read (insert m i v) i = v := by
  induction m with
  | nil => exact read_cons_same v rfl
  | cons cell m ih =>
    obtain ⟨k, w⟩ := cell
    have hk : ¬ i = k := fun e => h (k, w) (by simp) e.symm
    have absent : ∀ m : Memory, (∀ cell ∈ m, cell.1 ≠ i) → read m i = unlisted := by
      intro m hm
      induction m with
      | nil => rfl
      | cons c m ihm =>
        have hc : ¬ i = c.1 := fun e => hm c (by simp) e.symm
        simp only [read, hc, if_false]
        exact ihm (fun c' hc' => hm c' (by simp [hc']))
    unfold insert
    split
    · exact read_cons_same v (absent _ h)
    · simp only [read, hk, if_false]
      exact ih (fun c hc => h c (by simp [hc]))

theorem read_filter_ne {i j : Nat} (m : Memory) (h : j ≠ i) :
    read (m.filter (fun cell => cell.1 ≠ i)) j = read m j := by
  induction m with
  | nil => rfl
  | cons cell m ih =>
    obtain ⟨k, w⟩ := cell
    by_cases hk : k = i
    · have hj : ¬ j = k := by omega
      rw [List.filter_cons_of_neg (by simp [hk])]
      simp only [read, hj, if_false]
      exact ih
    · simp only [ne_eq, hk, not_false_eq_true, decide_true, List.filter_cons_of_pos, read]
      rw [ih]

/-- What a read gives after a write, in any memory. -/
theorem read_write (m : Memory) (i : Nat) (v : Byte) (j : Nat) :
    read (write m i v) j = if j = i then v else read m j := by
  unfold write
  split
  · rename_i h
    rw [h]
    apply read_insert_same
    intro cell hc
    simpa using (List.mem_filter.mp hc).2
  · rename_i h
    rw [read_insert_ne _ v h, read_filter_ne m h]

/-- A read below every listed index finds nothing. -/
theorem read_of_lt {least : Nat} {m : Memory} (h : wfFrom least m = true) {i : Nat} (hi : i < least) :
    read m i = unlisted := by
  induction m generalizing least with
  | nil => rfl
  | cons cell m ih =>
    obtain ⟨k, v⟩ := cell
    simp only [wfFrom, Bool.and_eq_true, decide_eq_true_eq] at h
    have hk : i ≠ k := by omega
    simp only [read, hk, if_false]
    exact ih h.2 (by omega)

theorem wfFrom_mono {least low : Nat} {m : Memory} (h : wfFrom least m = true) (hl : low ≤ least) :
    wfFrom low m = true := by
  cases m with
  | nil => rfl
  | cons cell m =>
    obtain ⟨k, v⟩ := cell
    simp only [wfFrom, Bool.and_eq_true, decide_eq_true_eq] at h ⊢
    exact ⟨⟨by omega, h.1.2⟩, h.2⟩

theorem wfFrom_cons {least i : Nat} {v : Byte} {m : Memory} (hl : least ≤ i)
    (h : wfFrom (i + 1) m = true) : wfFrom least (cons i v m) = true := by
  unfold cons
  split
  · exact wfFrom_mono h (by omega)
  · rename_i hv
    simp [wfFrom, hl, hv, h]

theorem wfFrom_filter {least : Nat} {m : Memory} (h : wfFrom least m = true) (keep : Host.Cell → Bool) :
    wfFrom least (m.filter keep) = true := by
  induction m generalizing least with
  | nil => rfl
  | cons cell m ih =>
    obtain ⟨k, v⟩ := cell
    simp only [wfFrom, Bool.and_eq_true, decide_eq_true_eq] at h
    by_cases hk : keep (k, v) = true
    · rw [List.filter_cons_of_pos hk]
      simp only [wfFrom, Bool.and_eq_true, decide_eq_true_eq]
      exact ⟨h.1, ih h.2⟩
    · rw [List.filter_cons_of_neg hk]
      exact wfFrom_mono (ih h.2) (by omega)

theorem wfFrom_insert {least i : Nat} {m : Memory} (h : wfFrom least m = true) (hi : least ≤ i)
    (absent : ∀ cell ∈ m, cell.1 ≠ i) (v : Byte) : wfFrom least (insert m i v) = true := by
  induction m generalizing least with
  | nil => exact wfFrom_cons hi rfl
  | cons cell m ih =>
    obtain ⟨k, w⟩ := cell
    simp only [wfFrom, Bool.and_eq_true, decide_eq_true_eq] at h
    have hk : k ≠ i := absent (k, w) (by simp)
    unfold insert
    split
    · apply wfFrom_cons hi
      simp only [wfFrom, Bool.and_eq_true, decide_eq_true_eq]
      exact ⟨⟨by omega, h.1.2⟩, h.2⟩
    · simp only [wfFrom, Bool.and_eq_true, decide_eq_true_eq]
      exact ⟨h.1, ih h.2 (by omega) (fun c hc => absent c (by simp [hc]))⟩

/-- A write keeps the canonical form. -/
theorem wf_write {m : Memory} (h : wf m = true) (i : Nat) (v : Byte) : wf (write m i v) = true := by
  apply wfFrom_insert (wfFrom_filter h _) (Nat.zero_le i)
  intro cell hc
  simpa using (List.mem_filter.mp hc).2

theorem below_cons {size i : Nat} {v : Byte} {m : Memory} (hi : i < size) (h : below size m = true) :
    below size (cons i v m) = true := by
  unfold cons
  split
  · exact h
  · simp only [below, List.all_cons, Bool.and_eq_true, decide_eq_true_eq]
    exact ⟨hi, h⟩

theorem below_insert {size i : Nat} {m : Memory} (h : below size m = true) (hi : i < size) (v : Byte) :
    below size (insert m i v) = true := by
  induction m with
  | nil => exact below_cons hi rfl
  | cons cell m ih =>
    obtain ⟨k, w⟩ := cell
    have h' := h
    simp only [below, List.all_cons, Bool.and_eq_true, decide_eq_true_eq] at h
    unfold insert
    split
    · exact below_cons hi h'
    · simp only [below, List.all_cons, Bool.and_eq_true, decide_eq_true_eq]
      exact ⟨h.1, ih h.2⟩

/-- A write below the size keeps every index below it. -/
theorem below_write {size i : Nat} {m : Memory} (h : below size m = true) (hi : i < size) (v : Byte) :
    below size (write m i v) = true := by
  apply below_insert _ hi
  simp only [below, List.all_eq_true] at h ⊢
  exact fun c hc => h c (List.mem_of_mem_filter hc)

theorem wfFrom_ofBytes (start : Nat) (bs : List Byte) : wfFrom start (ofBytes start bs) = true := by
  induction bs generalizing start with
  | nil => rfl
  | cons b bs ih => exact wfFrom_cons (le_refl start) (ih (start + 1))

/-- A memory made of bytes is canonical. -/
theorem wf_ofBytes (bs : List Byte) : wf (ofBytes 0 bs) = true := wfFrom_ofBytes 0 bs

theorem below_ofBytes_from (start : Nat) (bs : List Byte) (size : Nat) (h : start + bs.length ≤ size) :
    below size (ofBytes start bs) = true := by
  induction bs generalizing start with
  | nil => rfl
  | cons b bs ih =>
    rw [List.length_cons] at h
    exact below_cons (by omega) (ih (start + 1) (by omega))

/-- A memory made of bytes lists no index past them. -/
theorem below_ofBytes (bs : List Byte) : below bs.length (ofBytes 0 bs) = true :=
  below_ofBytes_from 0 bs bs.length (by omega)

theorem read_ofBytes_from (start : Nat) (bs : List Byte) (i : Nat) :
    read (ofBytes start bs) (start + i) = bs.getD i unlisted := by
  induction bs generalizing start i with
  | nil => rfl
  | cons b bs ih =>
    rw [ofBytes]
    cases i with
    | zero => exact read_cons_same b (read_of_lt (wfFrom_ofBytes (start + 1) bs) (by omega))
    | succ i =>
      rw [read_cons_ne b _ (by omega), show start + (i + 1) = start + 1 + i by omega, ih]
      rfl

/-- A memory made of bytes reads as the bytes, and as unlisted past them. -/
theorem read_ofBytes (bs : List Byte) (i : Nat) : read (ofBytes 0 bs) i = bs.getD i unlisted := by
  have := read_ofBytes_from 0 bs i
  rwa [Nat.zero_add] at this

/-- A memory made of bytes that all read as unlisted lists nothing. -/
theorem ofBytes_replicate (start n : Nat) : ofBytes start (List.replicate n unlisted) = [] := by
  induction n generalizing start with
  | zero => rfl
  | succ n ih => rw [List.replicate_succ, ofBytes, ih, cons, if_pos rfl]

end Sys2Proof.Machine.Memory
end

