-- ==== Sys2Proof/Laws/State.lean ====
section
/-! SUPPORT. One lemma per field per update of State, so that no proof unfolds a record update. -/

namespace Sys2Proof.Machine.State

variable (s : State)

@[simp] theorem setA_a (v : Byte) : (s.setA v).a = v := rfl
@[simp] theorem setA_x (v : Byte) : (s.setA v).x = s.x := rfl
@[simp] theorem setA_y (v : Byte) : (s.setA v).y = s.y := rfl
@[simp] theorem setA_sp (v : Byte) : (s.setA v).sp = s.sp := rfl
@[simp] theorem setA_p (v : Byte) : (s.setA v).p = s.p := rfl
@[simp] theorem setA_pc (v : Byte) : (s.setA v).pc = s.pc := rfl
@[simp] theorem setA_halt (v : Byte) : (s.setA v).halt = s.halt := rfl
@[simp] theorem setA_ram (v : Byte) : (s.setA v).ram = s.ram := rfl
@[simp] theorem setA_cart (v : Byte) : (s.setA v).cart = s.cart := rfl

@[simp] theorem setX_a (v : Byte) : (s.setX v).a = s.a := rfl
@[simp] theorem setX_x (v : Byte) : (s.setX v).x = v := rfl
@[simp] theorem setX_y (v : Byte) : (s.setX v).y = s.y := rfl
@[simp] theorem setX_sp (v : Byte) : (s.setX v).sp = s.sp := rfl
@[simp] theorem setX_p (v : Byte) : (s.setX v).p = s.p := rfl
@[simp] theorem setX_pc (v : Byte) : (s.setX v).pc = s.pc := rfl
@[simp] theorem setX_halt (v : Byte) : (s.setX v).halt = s.halt := rfl
@[simp] theorem setX_ram (v : Byte) : (s.setX v).ram = s.ram := rfl
@[simp] theorem setX_cart (v : Byte) : (s.setX v).cart = s.cart := rfl

@[simp] theorem setY_a (v : Byte) : (s.setY v).a = s.a := rfl
@[simp] theorem setY_x (v : Byte) : (s.setY v).x = s.x := rfl
@[simp] theorem setY_y (v : Byte) : (s.setY v).y = v := rfl
@[simp] theorem setY_sp (v : Byte) : (s.setY v).sp = s.sp := rfl
@[simp] theorem setY_p (v : Byte) : (s.setY v).p = s.p := rfl
@[simp] theorem setY_pc (v : Byte) : (s.setY v).pc = s.pc := rfl
@[simp] theorem setY_halt (v : Byte) : (s.setY v).halt = s.halt := rfl
@[simp] theorem setY_ram (v : Byte) : (s.setY v).ram = s.ram := rfl
@[simp] theorem setY_cart (v : Byte) : (s.setY v).cart = s.cart := rfl

@[simp] theorem setP_a (v : Byte) : (s.setP v).a = s.a := rfl
@[simp] theorem setP_x (v : Byte) : (s.setP v).x = s.x := rfl
@[simp] theorem setP_y (v : Byte) : (s.setP v).y = s.y := rfl
@[simp] theorem setP_sp (v : Byte) : (s.setP v).sp = s.sp := rfl
@[simp] theorem setP_p (v : Byte) : (s.setP v).p = v := rfl
@[simp] theorem setP_pc (v : Byte) : (s.setP v).pc = s.pc := rfl
@[simp] theorem setP_halt (v : Byte) : (s.setP v).halt = s.halt := rfl
@[simp] theorem setP_ram (v : Byte) : (s.setP v).ram = s.ram := rfl
@[simp] theorem setP_cart (v : Byte) : (s.setP v).cart = s.cart := rfl

@[simp] theorem setPc_a (w : Addr) : (s.setPc w).a = s.a := rfl
@[simp] theorem setPc_x (w : Addr) : (s.setPc w).x = s.x := rfl
@[simp] theorem setPc_y (w : Addr) : (s.setPc w).y = s.y := rfl
@[simp] theorem setPc_sp (w : Addr) : (s.setPc w).sp = s.sp := rfl
@[simp] theorem setPc_p (w : Addr) : (s.setPc w).p = s.p := rfl
@[simp] theorem setPc_pc (w : Addr) : (s.setPc w).pc = w := rfl
@[simp] theorem setPc_halt (w : Addr) : (s.setPc w).halt = s.halt := rfl
@[simp] theorem setPc_ram (w : Addr) : (s.setPc w).ram = s.ram := rfl
@[simp] theorem setPc_cart (w : Addr) : (s.setPc w).cart = s.cart := rfl

@[simp] theorem setHalt_a (r : ErrorRecord) : (s.setHalt r).a = s.a := rfl
@[simp] theorem setHalt_x (r : ErrorRecord) : (s.setHalt r).x = s.x := rfl
@[simp] theorem setHalt_y (r : ErrorRecord) : (s.setHalt r).y = s.y := rfl
@[simp] theorem setHalt_sp (r : ErrorRecord) : (s.setHalt r).sp = s.sp := rfl
@[simp] theorem setHalt_p (r : ErrorRecord) : (s.setHalt r).p = s.p := rfl
@[simp] theorem setHalt_pc (r : ErrorRecord) : (s.setHalt r).pc = s.pc := rfl
@[simp] theorem setHalt_halt (r : ErrorRecord) : (s.setHalt r).halt = some r := rfl
@[simp] theorem setHalt_ram (r : ErrorRecord) : (s.setHalt r).ram = s.ram := rfl
@[simp] theorem setHalt_cart (r : ErrorRecord) : (s.setHalt r).cart = s.cart := rfl

@[simp] theorem advance_a (n : Nat) : (s.advance n).a = s.a := rfl
@[simp] theorem advance_x (n : Nat) : (s.advance n).x = s.x := rfl
@[simp] theorem advance_y (n : Nat) : (s.advance n).y = s.y := rfl
@[simp] theorem advance_sp (n : Nat) : (s.advance n).sp = s.sp := rfl
@[simp] theorem advance_p (n : Nat) : (s.advance n).p = s.p := rfl
@[simp] theorem advance_pc (n : Nat) : (s.advance n).pc = s.pc + BitVec.ofNat 16 n := rfl
@[simp] theorem advance_halt (n : Nat) : (s.advance n).halt = s.halt := rfl
@[simp] theorem advance_ram (n : Nat) : (s.advance n).ram = s.ram := rfl
@[simp] theorem advance_cart (n : Nat) : (s.advance n).cart = s.cart := rfl

@[simp] theorem setFlag_a (g : Flag) (b : Bool) : (s.setFlag g b).a = s.a := rfl
@[simp] theorem setFlag_x (g : Flag) (b : Bool) : (s.setFlag g b).x = s.x := rfl
@[simp] theorem setFlag_y (g : Flag) (b : Bool) : (s.setFlag g b).y = s.y := rfl
@[simp] theorem setFlag_sp (g : Flag) (b : Bool) : (s.setFlag g b).sp = s.sp := rfl
@[simp] theorem setFlag_pc (g : Flag) (b : Bool) : (s.setFlag g b).pc = s.pc := rfl
@[simp] theorem setFlag_halt (g : Flag) (b : Bool) : (s.setFlag g b).halt = s.halt := rfl
@[simp] theorem setFlag_ram (g : Flag) (b : Bool) : (s.setFlag g b).ram = s.ram := rfl
@[simp] theorem setFlag_cart (g : Flag) (b : Bool) : (s.setFlag g b).cart = s.cart := rfl

end Sys2Proof.Machine.State
end

