-- ==== Sys2Proof/Laws/Bus.lean ====
section
/-! SUPPORT. The laws of the bus and of the named operations of Machine/Ops.lean. -/

namespace Sys2Proof.Machine

/-- The region of an address, in numbers. -/
theorem region_ram_iff (addr : Addr) : region addr = .ram ↔ addr.toNat ≤ 0x1FFF := by
  unfold region
  have : (0x1FFF : Addr).toNat = 0x1FFF := rfl
  split
  · rename_i h
    rw [BitVec.le_def, this] at h
    simp [h]
  · rename_i h
    rw [BitVec.le_def, this] at h
    simp only [h, iff_false]
    split_ifs <;> simp

theorem region_prg_iff (addr : Addr) : region addr = .prg ↔ 0x8000 ≤ addr.toNat := by
  unfold region
  simp only [BitVec.le_def]
  have h1 : (0x1FFF : Addr).toNat = 0x1FFF := rfl
  have h2 : (0x3FFF : Addr).toNat = 0x3FFF := rfl
  have h3 : (0x401F : Addr).toNat = 0x401F := rfl
  have h4 : (0x5FFF : Addr).toNat = 0x5FFF := rfl
  have h5 : (0x7FFF : Addr).toNat = 0x7FFF := rfl
  rw [h1, h2, h3, h4, h5]
  split_ifs <;> simp <;> omega

/-- The RAM index of an address is its low eleven bits. -/
theorem ramIndex_eq (addr : Addr) : ramIndex addr = addr.toNat % 0x800 := by
  unfold ramIndex
  rw [BitVec.toNat_and]
  exact Nat.and_two_pow_sub_one_eq_mod addr.toNat 11

theorem ramIndex_lt (addr : Addr) : ramIndex addr < Config.ramSize := by
  rw [ramIndex_eq]
  exact Nat.mod_lt _ (by decide)

variable (s : State) (addr : Addr) (v : Byte)

/-- A store writes RAM where the address is in RAM, and nothing otherwise. -/
theorem storeb_eq : storeb s addr v =
    if region addr = .ram then { s with ram := s.ram.write (ramIndex addr) v } else s := by
  unfold storeb
  cases region addr <;> rfl

@[simp] theorem storeb_a : (storeb s addr v).a = s.a := by rw [storeb_eq]; split <;> rfl
@[simp] theorem storeb_x : (storeb s addr v).x = s.x := by rw [storeb_eq]; split <;> rfl
@[simp] theorem storeb_y : (storeb s addr v).y = s.y := by rw [storeb_eq]; split <;> rfl
@[simp] theorem storeb_sp : (storeb s addr v).sp = s.sp := by rw [storeb_eq]; split <;> rfl
@[simp] theorem storeb_p : (storeb s addr v).p = s.p := by rw [storeb_eq]; split <;> rfl
@[simp] theorem storeb_pc : (storeb s addr v).pc = s.pc := by rw [storeb_eq]; split <;> rfl
@[simp] theorem storeb_halt : (storeb s addr v).halt = s.halt := by rw [storeb_eq]; split <;> rfl
@[simp] theorem storeb_cart : (storeb s addr v).cart = s.cart := by rw [storeb_eq]; split <;> rfl

/-- What a load reads depends on RAM and the cartridge alone. -/
theorem loadb_congr {s t : State} (hr : t.ram = s.ram) (hc : t.cart = s.cart) (addr : Addr) :
    loadb t addr = loadb s addr := by
  unfold loadb
  rw [hr, hc]

@[simp] theorem loadb_setA (w : Byte) : loadb (s.setA w) addr = loadb s addr := rfl
@[simp] theorem loadb_setX (w : Byte) : loadb (s.setX w) addr = loadb s addr := rfl
@[simp] theorem loadb_setY (w : Byte) : loadb (s.setY w) addr = loadb s addr := rfl
@[simp] theorem loadb_setP (w : Byte) : loadb (s.setP w) addr = loadb s addr := rfl
@[simp] theorem loadb_setPc (w : Addr) : loadb (s.setPc w) addr = loadb s addr := rfl
@[simp] theorem loadb_setHalt (r : ErrorRecord) : loadb (s.setHalt r) addr = loadb s addr := rfl
@[simp] theorem loadb_advance (n : Nat) : loadb (s.advance n) addr = loadb s addr := rfl
@[simp] theorem loadb_setFlag (g : Flag) (b : Bool) : loadb (s.setFlag g b) addr = loadb s addr := rfl

/-- A load after a store: the byte stored where both addresses name one RAM byte, else what was there. -/
theorem loadb_storeb (ea : Addr) : loadb (storeb s ea v) addr =
    if region ea = .ram ∧ region addr = .ram ∧ ramIndex addr = ramIndex ea then v else loadb s addr := by
  rw [storeb_eq]
  by_cases he : region ea = .ram
  · rw [if_pos he]
    unfold loadb
    cases ha : region addr <;> simp [he, Memory.read_write]
  · rw [if_neg he, if_neg (fun h => he h.1)]

/-- A joined word in numbers. -/
theorem joinBytes_toNat (lo hi : Byte) : (joinBytes lo hi).toNat = hi.toNat * 256 + lo.toNat := by
  unfold joinBytes
  rw [BitVec.toNat_append, Nat.shiftLeft_eq, Nat.mul_comm, ← Nat.two_pow_add_eq_or_of_lt lo.isLt,
    Nat.mul_comm]

theorem loByte_toNat (w : Addr) : (loByte w).toNat = w.toNat % 256 := by
  simp [loByte, BitVec.extractLsb'_toNat]

theorem hiByte_toNat (w : Addr) : (hiByte w).toNat = w.toNat / 256 := by
  have := w.isLt
  simp only [hiByte, BitVec.extractLsb'_toNat, Nat.shiftRight_eq_div_pow]
  omega

/-- The two halves of a word, joined. -/
theorem joinBytes_lo_hi (w : Addr) : joinBytes (loByte w) (hiByte w) = w := by
  apply BitVec.eq_of_toNat_eq
  rw [joinBytes_toNat, loByte_toNat, hiByte_toNat]
  omega

theorem loByte_joinBytes (lo hi : Byte) : loByte (joinBytes lo hi) = lo := by
  have := lo.isLt
  apply BitVec.eq_of_toNat_eq
  rw [loByte_toNat, joinBytes_toNat]
  omega

theorem hiByte_joinBytes (lo hi : Byte) : hiByte (joinBytes lo hi) = hi := by
  have := lo.isLt
  apply BitVec.eq_of_toNat_eq
  rw [hiByte_toNat, joinBytes_toNat]
  omega

end Sys2Proof.Machine
end

