-- ==== Sys2Proof/Laws/Cartridge.lean ====
section
/-! SUPPORT. What the parser answers, and where. -/

namespace Sys2Proof.Machine

/-- The parser accepts exactly the images that pass its four checks, with the cartridge cut from them. -/
theorem parse_eq_ok {img : List Byte} {c : Cartridge} : parse img = .ok c ↔
    ∃ header, Header.ofImage img = some header ∧ header.magic = Config.magic ∧
      Config.headerSize + header.trainerLength + header.prgLength + header.chrLength ≤ img.length ∧
      c = { header,
            prg := Memory.ofBytes 0
              ((img.drop (Config.headerSize + header.trainerLength)).take header.prgLength),
            chr := Memory.ofBytes 0
              ((img.drop (Config.headerSize + header.trainerLength + header.prgLength)).take
                header.chrLength) } := by
  unfold parse
  cases hh : Header.ofImage img with
  | none => simp
  | some header =>
    simp only [Option.some.injEq, exists_eq_left']
    split_ifs with hm ht hp hc
    · simp [hm]
    · simp only [false_iff]; omega
    · simp only [false_iff]; omega
    · simp only [false_iff]; omega
    · rw [Except.ok.injEq]
      constructor
      · rintro rfl
        exact ⟨not_not.mp hm, by omega, rfl⟩
      · rintro ⟨-, -, rfl⟩
        rfl

/-- A header is read exactly where there are 16 bytes. -/
theorem ofImage_isSome (img : List Byte) : (Header.ofImage img).isSome = true ↔ 16 ≤ img.length := by
  unfold Header.ofImage
  split
  · simp
  · rename_i h
    simp only [Option.isSome_none, Bool.false_eq_true, false_iff, not_le]
    by_contra hlen
    rcases img with
      _ | ⟨m0, _ | ⟨m1, _ | ⟨m2, _ | ⟨m3, _ | ⟨b4, _ | ⟨b5, _ | ⟨b6, _ | ⟨b7, _ | ⟨b8, _ | ⟨b9, _ | ⟨b10, _ | ⟨b11,
        _ | ⟨b12, _ | ⟨b13, _ | ⟨b14, _ | ⟨b15, rest⟩⟩⟩⟩⟩⟩⟩⟩⟩⟩⟩⟩⟩⟩⟩⟩ <;>
      first
        | exact h m0 m1 m2 m3 b4 b5 b6 b7 b8 b9 b10 b11 b12 b13 b14 b15 rest rfl
        | (simp only [List.length_cons, List.length_nil] at hlen; omega)

end Sys2Proof.Machine
end

