-- ==== Sys2Proof/Laws/Decode.lean ====
section
/-! SUPPORT. The opcode table and the decoder: where an entry comes from, and everything a decoding of an
opcode byte and the bytes after it can be. -/

namespace Sys2Proof

/-- An entry found by `lookup` is that of a row with the byte as its opcode. -/
theorem lookup_mem {op : Byte} {e : Entry} (h : lookup op = some e) :
    ∃ r ∈ opcodeTable, r.opcode = op ∧ r.entry = e := by
  unfold lookup at h
  obtain ⟨r, hr, he⟩ := Option.map_eq_some_iff.mp h
  exact ⟨r, List.mem_of_find?_eq_some hr, by simpa using List.find?_some hr, he⟩

/-- The decoder on an opcode byte that has an entry and the bytes after it. -/
theorem decode_ok_cases {op : Byte} {bs : List Byte} {i : Instr} {rest : List Byte}
    (h : decode (op :: bs) = .ok (i, rest)) :
    (lookup op = some (.bare i) ∧ rest = bs) ∨
    (∃ make nn, lookup op = some (.byte make) ∧ bs = nn :: rest ∧ i = make nn) ∨
    (∃ make ll hh, lookup op = some (.word make) ∧ bs = ll :: hh :: rest ∧ i = make (joinBytes ll hh)) := by
  simp only [decode] at h
  cases hl : lookup op with
  | none => simp [hl] at h
  | some e =>
    rw [hl] at h
    cases e with
    | bare j =>
      obtain ⟨rfl, rfl⟩ := Prod.mk.inj (Except.ok.inj h)
      exact .inl ⟨rfl, rfl⟩
    | byte make =>
      cases bs with
      | nil => simp at h
      | cons nn bs =>
        obtain ⟨rfl, rfl⟩ := Prod.mk.inj (Except.ok.inj h)
        exact .inr (.inl ⟨make, nn, rfl, rfl, rfl⟩)
    | word make =>
      rcases bs with _ | ⟨ll, _ | ⟨hh, bs⟩⟩
      · simp at h
      · simp at h
      · obtain ⟨rfl, rfl⟩ := Prod.mk.inj (Except.ok.inj h)
        exact .inr (.inr ⟨make, ll, hh, rfl, rfl, rfl⟩)

/-- The decoder refuses an opcode byte by name exactly where the byte has no entry. -/
theorem decode_illegal_iff {op o : Byte} {bs : List Byte} :
    decode (op :: bs) = .error (.illegalOpcode o) ↔ lookup op = none ∧ o = op := by
  simp only [decode]
  cases hl : lookup op with
  | none => simp [eq_comm]
  | some e =>
    cases e with
    | bare j => simp
    | byte make => cases bs <;> simp
    | word make => rcases bs with _ | ⟨ll, _ | ⟨hh, bs⟩⟩ <;> simp

/-- Three bytes are enough for every instruction. -/
theorem decode_three_ne_truncated (b0 b1 b2 : Byte) : decode [b0, b1, b2] ≠ .error .truncated := by
  simp only [decode]
  cases lookup b0 with
  | none => simp
  | some e => cases e <;> simp

end Sys2Proof
end

