-- ==== Sys2Proof/Laws/Flags.lean ====
section
/-! SUPPORT. The laws of the flags and of the arithmetic of Machine/Flags.lean, in numbers. -/

namespace Sys2Proof.Machine

theorem Flag.bit_lt (f : Flag) : f.bit < 8 := by cases f <;> decide

theorem Flag.bit_inj {f g : Flag} (h : f.bit = g.bit) : f = g := by
  revert h; cases f <;> cases g <;> decide

theorem Flag.mask_eq (f : Flag) : f.mask = BitVec.twoPow 8 f.bit := by cases f <;> rfl

/-- A flag is its bit of P. -/
theorem flag_eq_bit (s : State) (f : Flag) : s.flag f = s.p.getLsbD f.bit := by
  simp only [State.flag]
  generalize s.p = p
  revert p
  cases f <;> decide

/-- A flag after a flag write. -/
@[simp] theorem flag_setFlag (s : State) (f g : Flag) (b : Bool) :
    (s.setFlag g b).flag f = if f = g then b else s.flag f := by
  have hf := f.bit_lt
  rw [flag_eq_bit, flag_eq_bit]
  simp only [State.setFlag, State.setP, Flag.mask_eq]
  by_cases h : f = g
  · subst h
    cases b <;> simp [hf]
  · have hne : ¬ f.bit = g.bit := fun e => h (Flag.bit_inj e)
    cases b <;> simp [h, hf, hne]

/-- The flags determine P. -/
theorem p_ext {s t : State} (h : ∀ f, s.flag f = t.flag f) : s.p = t.p := by
  simp only [flag_eq_bit] at h
  apply BitVec.eq_of_getLsbD_eq
  intro i hi
  interval_cases i
  · exact h .c
  · exact h .z
  · exact h .i
  · exact h .d
  · exact h .b4
  · exact h .b5
  · exact h .v
  · exact h .n

theorem flag_congr {s t : State} (h : t.p = s.p) (f : Flag) : t.flag f = s.flag f := by
  simp only [State.flag, h]

/-- ADC's value in numbers. -/
theorem addWithCarry_value (a v : Byte) (c : Bool) :
    (addWithCarry a v c).value.toNat = (a.toNat + v.toNat + c.toNat) % 256 := by
  simp [addWithCarry, BitVec.toNat_ofNat]

theorem testBit_eight_of_lt {n : Nat} (h : n < 512) : n.testBit 8 = decide (256 ≤ n) := by
  rw [Nat.testBit_eq_decide_div_mod_eq]
  congr 1
  apply propext
  constructor <;> intro _ <;> omega

/-- ADC's carry in numbers. -/
theorem addWithCarry_carry (a v : Byte) (c : Bool) :
    (addWithCarry a v c).carry = decide (256 ≤ a.toNat + v.toNat + c.toNat) := by
  have ha := a.isLt
  have hv := v.isLt
  have hc := c.toNat_le
  exact testBit_eight_of_lt (by omega)

theorem testBit_eight_of_wrapped {d : Int} (hl : -256 ≤ d) (hu : d < 256) :
    (d % 65536).toNat.testBit 8 = decide (d < 0) := by
  rw [Nat.testBit_eq_decide_div_mod_eq]
  congr 1
  apply propext
  constructor <;> intro _ <;> omega

/-- SBC's value in numbers. -/
theorem subWithCarry_value (a v : Byte) (c : Bool) :
    ((subWithCarry a v c).value.toNat : Int) = ((a.toNat : Int) - v.toNat - c.toNat) % 256 := by
  simp only [subWithCarry, BitVec.toNat_ofInt]
  omega

/-- SBC's borrow in numbers. -/
theorem subWithCarry_carry (a v : Byte) (c : Bool) :
    (subWithCarry a v c).carry = decide (a.toNat < v.toNat + c.toNat) := by
  have ha := a.isLt
  have hv := v.isLt
  have hc := c.toNat_le
  simp only [subWithCarry]
  rw [testBit_eight_of_wrapped (by omega) (by omega)]
  congr 1
  apply propext
  constructor <;> intro _ <;> omega

/-- A compare's flags in numbers. -/
theorem compareBytes_eq (reg v : Byte) :
    compareBytes reg v =
      { carry := decide (v.toNat ≤ reg.toNat), zero := decide (reg.toNat = v.toNat) } := by
  have hr := reg.isLt
  have hv := v.isLt
  simp only [compareBytes]
  rw [testBit_eight_of_wrapped (by omega) (by omega)]
  congr 1
  · rw [← decide_not]
    congr 1
    apply propext
    constructor <;> intro _ <;> omega
  · rw [Bool.eq_iff_iff, beq_iff_eq, decide_eq_true_eq]
    constructor <;> intro _ <;> omega

theorem shiftLeft_spec (v : Byte) :
    (shiftLeft v).value.toNat = 2 * v.toNat % 256 ∧ (shiftLeft v).carry = decide (128 ≤ v.toNat) := by
  revert v; decide

theorem shiftRight_spec (v : Byte) :
    (shiftRight v).value.toNat = v.toNat / 2 ∧ (shiftRight v).carry = decide (v.toNat % 2 = 1) := by
  revert v; decide

theorem rotateLeft_spec (v : Byte) (c : Bool) :
    (rotateLeft v c).value.toNat = 2 * v.toNat % 256 + c.toNat ∧
      (rotateLeft v c).carry = decide (128 ≤ v.toNat) := by
  revert v c; decide

theorem rotateRight_spec (v : Byte) (c : Bool) :
    (rotateRight v c).value.toNat = v.toNat / 2 + 128 * c.toNat ∧
      (rotateRight v c).carry = decide (v.toNat % 2 = 1) := by
  revert v c; decide

end Sys2Proof.Machine
end

