-- ==== Sys2Proof/Laws/Operands.lean ====
section
/-! SUPPORT. What the shared shapes of Machine/Operands.lean do, once each: a load shape always answers
the next state, and a store shape answers it for every operand but an immediate. -/

namespace Sys2Proof.Machine

theorem eaZeroPage_toNat (nn : Byte) : (eaZeroPage nn).toNat = nn.toNat := by
  have := nn.isLt
  simp only [eaZeroPage, zext16, BitVec.toNat_setWidth]
  omega

theorem eaZeroPageIndexed_toNat (nn index : Byte) :
    (eaZeroPageIndexed nn index).toNat = (nn.toNat + index.toNat) % 256 := by
  simp only [eaZeroPageIndexed, zext16, BitVec.toNat_setWidth, BitVec.toNat_add]
  omega

theorem eaAbsoluteIndexed_toNat (addr : Addr) (index : Byte) :
    (eaAbsoluteIndexed addr index).toNat = (addr.toNat + index.toNat) % 65536 := by
  have := index.isLt
  simp only [eaAbsoluteIndexed, zext16, BitVec.toNat_setWidth, BitVec.toNat_add]
  omega

variable {o : Operand} {s : State}

/-- The load shape answers the next state, with the byte its operand names. -/
theorem loadThen_eq (o : Operand) (apply : Byte → State → State) (s : State) :
    loadThen o apply s = .next ((apply (loadAt (resolve o s) s) s).advance o.length) := rfl

/-- A store through a memory operand stores at its effective address. -/
theorem storeThrough_mem {ea : Addr} (h : resolve o s = .mem ea) (v : Byte) :
    storeThrough o v s = .next ((storeb s ea v).advance o.length) := by
  simp only [storeThrough, storeAt, finishStore, h]

/-- A store through an immediate fails with InvalidAddressingMode (40_addressing.md R92). -/
theorem storeThrough_value {nn : Byte} (h : resolve o s = .value nn) (v : Byte) :
    storeThrough o v s = .next (takeError .invalidAddressingMode s) := by
  simp only [storeThrough, storeAt, finishStore, h]

/-- A modify shape on the accumulator. -/
theorem modifyThrough_acc (f : Byte → Bool → Carried) (s : State) :
    modifyThrough .acc f s =
      .next (((s.setFlag .c (f s.a (s.flag .c)).carry).setA (f s.a (s.flag .c)).value).advance 1) := rfl

/-- A modify shape on memory: Carry is written, and the result at the address the byte came from. -/
theorem modifyThrough_mem {ea : Addr} (h : resolve o s = .mem ea) (f : Byte → Bool → Carried) :
    modifyThrough o f s =
      .next ((storeb (s.setFlag .c (f (loadb s ea) (s.flag .c)).carry) ea
        (f (loadb s ea) (s.flag .c)).value).advance o.length) := by
  simp only [modifyThrough, storeAt, finishStore, loadAt, h]

end Sys2Proof.Machine
end

