-- ==== Sys2Proof/Laws/PerInstr.lean ====
section
/-! SUPPORT. The shape of each instruction as text: its pair is in the opcode table (30_encoding.md R65),
its encoding has the length its mode gives (R61), and its first byte's entry consumes that many operand
bytes (R60, R63). -/

namespace Sys2Proof.Laws.Shape

/-- Operand bytes a table entry consumes. -/
def entryWidth : Entry → Nat
  | .bare _ => 0
  | .byte _ => 1
  | .word _ => 2

/-- What is said of every instruction. -/
def Statement (i : Instr) : Prop :=
  i.wellFormed = true ∧ (encode i).length = i.length ∧
    ((encode i).head?.bind lookup).map entryWidth = some i.mode.operandWidth

theorem adcImm (nn : Byte) : Statement (.adcImm nn) := ⟨rfl, rfl, rfl⟩
theorem adcZp (nn : Byte) : Statement (.adcZp nn) := ⟨rfl, rfl, rfl⟩
theorem adcZpx (nn : Byte) : Statement (.adcZpx nn) := ⟨rfl, rfl, rfl⟩
theorem adcAbs (addr : Addr) : Statement (.adcAbs addr) := ⟨rfl, rfl, rfl⟩
theorem adcAbsx (addr : Addr) : Statement (.adcAbsx addr) := ⟨rfl, rfl, rfl⟩
theorem adcAbsy (addr : Addr) : Statement (.adcAbsy addr) := ⟨rfl, rfl, rfl⟩
theorem sbcImm (nn : Byte) : Statement (.sbcImm nn) := ⟨rfl, rfl, rfl⟩
theorem sbcZp (nn : Byte) : Statement (.sbcZp nn) := ⟨rfl, rfl, rfl⟩
theorem sbcZpx (nn : Byte) : Statement (.sbcZpx nn) := ⟨rfl, rfl, rfl⟩
theorem sbcAbs (addr : Addr) : Statement (.sbcAbs addr) := ⟨rfl, rfl, rfl⟩
theorem sbcAbsx (addr : Addr) : Statement (.sbcAbsx addr) := ⟨rfl, rfl, rfl⟩
theorem sbcAbsy (addr : Addr) : Statement (.sbcAbsy addr) := ⟨rfl, rfl, rfl⟩
theorem andImm (nn : Byte) : Statement (.andImm nn) := ⟨rfl, rfl, rfl⟩
theorem andZp (nn : Byte) : Statement (.andZp nn) := ⟨rfl, rfl, rfl⟩
theorem andZpx (nn : Byte) : Statement (.andZpx nn) := ⟨rfl, rfl, rfl⟩
theorem andAbs (addr : Addr) : Statement (.andAbs addr) := ⟨rfl, rfl, rfl⟩
theorem andAbsx (addr : Addr) : Statement (.andAbsx addr) := ⟨rfl, rfl, rfl⟩
theorem andAbsy (addr : Addr) : Statement (.andAbsy addr) := ⟨rfl, rfl, rfl⟩
theorem oraImm (nn : Byte) : Statement (.oraImm nn) := ⟨rfl, rfl, rfl⟩
theorem oraZp (nn : Byte) : Statement (.oraZp nn) := ⟨rfl, rfl, rfl⟩
theorem oraZpx (nn : Byte) : Statement (.oraZpx nn) := ⟨rfl, rfl, rfl⟩
theorem oraAbs (addr : Addr) : Statement (.oraAbs addr) := ⟨rfl, rfl, rfl⟩
theorem oraAbsx (addr : Addr) : Statement (.oraAbsx addr) := ⟨rfl, rfl, rfl⟩
theorem oraAbsy (addr : Addr) : Statement (.oraAbsy addr) := ⟨rfl, rfl, rfl⟩
theorem eorImm (nn : Byte) : Statement (.eorImm nn) := ⟨rfl, rfl, rfl⟩
theorem eorZp (nn : Byte) : Statement (.eorZp nn) := ⟨rfl, rfl, rfl⟩
theorem eorZpx (nn : Byte) : Statement (.eorZpx nn) := ⟨rfl, rfl, rfl⟩
theorem eorAbs (addr : Addr) : Statement (.eorAbs addr) := ⟨rfl, rfl, rfl⟩
theorem eorAbsx (addr : Addr) : Statement (.eorAbsx addr) := ⟨rfl, rfl, rfl⟩
theorem eorAbsy (addr : Addr) : Statement (.eorAbsy addr) := ⟨rfl, rfl, rfl⟩
theorem aslAcc : Statement .aslAcc := ⟨rfl, rfl, rfl⟩
theorem aslZp (nn : Byte) : Statement (.aslZp nn) := ⟨rfl, rfl, rfl⟩
theorem aslZpx (nn : Byte) : Statement (.aslZpx nn) := ⟨rfl, rfl, rfl⟩
theorem aslAbs (addr : Addr) : Statement (.aslAbs addr) := ⟨rfl, rfl, rfl⟩
theorem aslAbsx (addr : Addr) : Statement (.aslAbsx addr) := ⟨rfl, rfl, rfl⟩
theorem lsrAcc : Statement .lsrAcc := ⟨rfl, rfl, rfl⟩
theorem lsrZp (nn : Byte) : Statement (.lsrZp nn) := ⟨rfl, rfl, rfl⟩
theorem lsrZpx (nn : Byte) : Statement (.lsrZpx nn) := ⟨rfl, rfl, rfl⟩
theorem lsrAbs (addr : Addr) : Statement (.lsrAbs addr) := ⟨rfl, rfl, rfl⟩
theorem lsrAbsx (addr : Addr) : Statement (.lsrAbsx addr) := ⟨rfl, rfl, rfl⟩
theorem rolAcc : Statement .rolAcc := ⟨rfl, rfl, rfl⟩
theorem rolZp (nn : Byte) : Statement (.rolZp nn) := ⟨rfl, rfl, rfl⟩
theorem rolZpx (nn : Byte) : Statement (.rolZpx nn) := ⟨rfl, rfl, rfl⟩
theorem rolAbs (addr : Addr) : Statement (.rolAbs addr) := ⟨rfl, rfl, rfl⟩
theorem rolAbsx (addr : Addr) : Statement (.rolAbsx addr) := ⟨rfl, rfl, rfl⟩
theorem rorAcc : Statement .rorAcc := ⟨rfl, rfl, rfl⟩
theorem rorZp (nn : Byte) : Statement (.rorZp nn) := ⟨rfl, rfl, rfl⟩
theorem rorZpx (nn : Byte) : Statement (.rorZpx nn) := ⟨rfl, rfl, rfl⟩
theorem rorAbs (addr : Addr) : Statement (.rorAbs addr) := ⟨rfl, rfl, rfl⟩
theorem rorAbsx (addr : Addr) : Statement (.rorAbsx addr) := ⟨rfl, rfl, rfl⟩
theorem cmpImm (nn : Byte) : Statement (.cmpImm nn) := ⟨rfl, rfl, rfl⟩
theorem cmpZp (nn : Byte) : Statement (.cmpZp nn) := ⟨rfl, rfl, rfl⟩
theorem cmpZpx (nn : Byte) : Statement (.cmpZpx nn) := ⟨rfl, rfl, rfl⟩
theorem cmpAbs (addr : Addr) : Statement (.cmpAbs addr) := ⟨rfl, rfl, rfl⟩
theorem cmpAbsx (addr : Addr) : Statement (.cmpAbsx addr) := ⟨rfl, rfl, rfl⟩
theorem cmpAbsy (addr : Addr) : Statement (.cmpAbsy addr) := ⟨rfl, rfl, rfl⟩
theorem cpxImm (nn : Byte) : Statement (.cpxImm nn) := ⟨rfl, rfl, rfl⟩
theorem cpxZp (nn : Byte) : Statement (.cpxZp nn) := ⟨rfl, rfl, rfl⟩
theorem cpxAbs (addr : Addr) : Statement (.cpxAbs addr) := ⟨rfl, rfl, rfl⟩
theorem cpyImm (nn : Byte) : Statement (.cpyImm nn) := ⟨rfl, rfl, rfl⟩
theorem cpyZp (nn : Byte) : Statement (.cpyZp nn) := ⟨rfl, rfl, rfl⟩
theorem cpyAbs (addr : Addr) : Statement (.cpyAbs addr) := ⟨rfl, rfl, rfl⟩
theorem ldaImm (nn : Byte) : Statement (.ldaImm nn) := ⟨rfl, rfl, rfl⟩
theorem ldaZp (nn : Byte) : Statement (.ldaZp nn) := ⟨rfl, rfl, rfl⟩
theorem ldaZpx (nn : Byte) : Statement (.ldaZpx nn) := ⟨rfl, rfl, rfl⟩
theorem ldaAbs (addr : Addr) : Statement (.ldaAbs addr) := ⟨rfl, rfl, rfl⟩
theorem ldaAbsx (addr : Addr) : Statement (.ldaAbsx addr) := ⟨rfl, rfl, rfl⟩
theorem ldaAbsy (addr : Addr) : Statement (.ldaAbsy addr) := ⟨rfl, rfl, rfl⟩
theorem ldxImm (nn : Byte) : Statement (.ldxImm nn) := ⟨rfl, rfl, rfl⟩
theorem ldxZp (nn : Byte) : Statement (.ldxZp nn) := ⟨rfl, rfl, rfl⟩
theorem ldxZpy (nn : Byte) : Statement (.ldxZpy nn) := ⟨rfl, rfl, rfl⟩
theorem ldxAbs (addr : Addr) : Statement (.ldxAbs addr) := ⟨rfl, rfl, rfl⟩
theorem ldxAbsy (addr : Addr) : Statement (.ldxAbsy addr) := ⟨rfl, rfl, rfl⟩
theorem ldyImm (nn : Byte) : Statement (.ldyImm nn) := ⟨rfl, rfl, rfl⟩
theorem ldyZp (nn : Byte) : Statement (.ldyZp nn) := ⟨rfl, rfl, rfl⟩
theorem ldyZpx (nn : Byte) : Statement (.ldyZpx nn) := ⟨rfl, rfl, rfl⟩
theorem ldyAbs (addr : Addr) : Statement (.ldyAbs addr) := ⟨rfl, rfl, rfl⟩
theorem ldyAbsx (addr : Addr) : Statement (.ldyAbsx addr) := ⟨rfl, rfl, rfl⟩
theorem staZp (nn : Byte) : Statement (.staZp nn) := ⟨rfl, rfl, rfl⟩
theorem staZpx (nn : Byte) : Statement (.staZpx nn) := ⟨rfl, rfl, rfl⟩
theorem staAbs (addr : Addr) : Statement (.staAbs addr) := ⟨rfl, rfl, rfl⟩
theorem staAbsx (addr : Addr) : Statement (.staAbsx addr) := ⟨rfl, rfl, rfl⟩
theorem staAbsy (addr : Addr) : Statement (.staAbsy addr) := ⟨rfl, rfl, rfl⟩
theorem stxZp (nn : Byte) : Statement (.stxZp nn) := ⟨rfl, rfl, rfl⟩
theorem stxZpy (nn : Byte) : Statement (.stxZpy nn) := ⟨rfl, rfl, rfl⟩
theorem stxAbs (addr : Addr) : Statement (.stxAbs addr) := ⟨rfl, rfl, rfl⟩
theorem styZp (nn : Byte) : Statement (.styZp nn) := ⟨rfl, rfl, rfl⟩
theorem styZpx (nn : Byte) : Statement (.styZpx nn) := ⟨rfl, rfl, rfl⟩
theorem styAbs (addr : Addr) : Statement (.styAbs addr) := ⟨rfl, rfl, rfl⟩
theorem nop : Statement .nop := ⟨rfl, rfl, rfl⟩
theorem bpl (offset : Byte) : Statement (.bpl offset) := ⟨rfl, rfl, rfl⟩
theorem bmi (offset : Byte) : Statement (.bmi offset) := ⟨rfl, rfl, rfl⟩
theorem bvc (offset : Byte) : Statement (.bvc offset) := ⟨rfl, rfl, rfl⟩
theorem bvs (offset : Byte) : Statement (.bvs offset) := ⟨rfl, rfl, rfl⟩
theorem bcc (offset : Byte) : Statement (.bcc offset) := ⟨rfl, rfl, rfl⟩
theorem bcs (offset : Byte) : Statement (.bcs offset) := ⟨rfl, rfl, rfl⟩
theorem bne (offset : Byte) : Statement (.bne offset) := ⟨rfl, rfl, rfl⟩
theorem beq (offset : Byte) : Statement (.beq offset) := ⟨rfl, rfl, rfl⟩
theorem jmp (target : Addr) : Statement (.jmp target) := ⟨rfl, rfl, rfl⟩
theorem inx : Statement .inx := ⟨rfl, rfl, rfl⟩
theorem iny : Statement .iny := ⟨rfl, rfl, rfl⟩
theorem dex : Statement .dex := ⟨rfl, rfl, rfl⟩
theorem dey : Statement .dey := ⟨rfl, rfl, rfl⟩

end Sys2Proof.Laws.Shape
end

