-- ==== Sys2Proof/Laws/Step.lean ====
section
/-! SUPPORT. Everything a step can do, in one inversion lemma, and the fetch by its bytes. -/

namespace Sys2Proof.Machine

/-- A step that answers `t` was one of three: a halted machine staying, an illegal opcode halting it, or
the fetched instruction running. -/
theorem step_cases {s t : State} (h : step s = .next t) :
    (∃ r, s.halt = some r ∧ t = s) ∨
    (s.halt = none ∧ fetchInstr s = none ∧ t = takeError .illegalOpcode s) ∨
    (∃ i, s.halt = none ∧ fetchInstr s = some i ∧ exec i s = .next t) := by
  unfold step at h
  cases hh : s.halt with
  | some r =>
    rw [hh] at h
    exact .inl ⟨r, rfl, (Host.Outcome.next.inj h).symm⟩
  | none =>
    rw [hh] at h
    cases hf : fetchInstr s with
    | none =>
      rw [hf] at h
      exact .inr (.inl ⟨rfl, rfl, (Host.Outcome.next.inj h).symm⟩)
    | some i =>
      rw [hf] at h
      exact .inr (.inr ⟨i, rfl, rfl, h⟩)

/-- The fetched instruction, by the bytes at PC and the two addresses after it. -/
theorem fetchInstr_eq (s : State) : fetchInstr s =
    match lookup (loadb s s.pc) with
    | none => none
    | some (.bare i) => some i
    | some (.byte make) => some (make (loadb s (s.pc + 1)))
    | some (.word make) => some (make (joinBytes (loadb s (s.pc + 1)) (loadb s (s.pc + 1 + 1)))) := rfl

/-- No instruction is fetched exactly where the opcode byte has no entry. -/
theorem fetchInstr_eq_none (s : State) : fetchInstr s = none ↔ lookup (loadb s s.pc) = none := by
  rw [fetchInstr_eq]
  cases lookup (loadb s s.pc) with
  | none => simp
  | some e => cases e <;> simp

end Sys2Proof.Machine
end

