-- ==== Sys2Proof/Tests/Slice0.lean ====
section
/-! SUPPORT. The model's own tests. Every expected result is read off the spec: the vectors of
95_test_vectors.md keep their names there (`test_adc1` is its ADC1), the decodings are written out from
the table of 30_encoding.md R65, and the witnesses show that hypotheses of the obligations can be met. -/

namespace Sys2Proof.Tests

open Sys2Proof.Machine

/-! ## Helpers -/

/-- The bytes decode to the instruction, with none left over. -/
def reads (bytes : List Byte) (i : Instr) : Bool :=
  match decode bytes with
  | .ok (j, rest) => decide (j = i) && rest.isEmpty
  | .error _ => false

/-- Every listed byte sequence decodes to the instruction beside it. -/
def allRead (rows : List (List Byte × Instr)) : Bool := rows.all (fun r => reads r.1 r.2)

/-- The bytes are refused, with this error. -/
def refusedAs (bytes : List Byte) (e : DecodeError) : Bool :=
  match decode bytes with
  | .ok _ => false
  | .error f => decide (f = e)

/-- A running machine on the standard test cartridge of 95_test_vectors.md, with `code` in PRG from the
PRG byte `pc` names. -/
def running (code : List Byte) (a x y p : Byte := 0x00) (ram : Memory := []) (pc : Addr := 0x8000) : State :=
  { a, x, y, sp := 0x00, p, pc, halt := none, ram,
    cart := { header := Header.blank, prg := Memory.ofBytes (pc.toNat % 0x4000) code, chr := [] } }

/-- One step answers a next state that passes the check. -/
def gives (s : State) (check : State → Bool) : Bool :=
  match step s with
  | .next t => check t
  | .fault _ | .refused _ => false

/-- The state one step answers; the state itself where it answers none. -/
def after (s : State) : State :=
  match step s with
  | .next t => t
  | .fault _ | .refused _ => s

/-- An image fails to parse at this check. -/
def failsAs (image : List Byte) (e : FormatError) : Bool :=
  match parse image with
  | .ok _ => false
  | .error f => decide (f = e)

/-! ## Well-formedness: an ill-formed term for the one check -/

theorem test_wellFormed_refuses_sta_imm : Form.wellFormed ⟨.sta, .imm⟩ = false := by decide
theorem test_wellFormed_refuses_ldx_zpx : Form.wellFormed ⟨.ldx, .zpx⟩ = false := by decide
theorem test_wellFormed_refuses_cpx_zpx : Form.wellFormed ⟨.cpx, .zpx⟩ = false := by decide
theorem test_wellFormed_refuses_sty_absx : Form.wellFormed ⟨.sty, .absx⟩ = false := by decide
theorem test_wellFormed_refuses_asl_absy : Form.wellFormed ⟨.asl, .absy⟩ = false := by decide
theorem test_wellFormed_accepts_asl_acc : Form.wellFormed ⟨.asl, .acc⟩ = true := by decide

/-! ## Decoding: every constructor, by a word written out from 30_encoding.md R65 -/

theorem test_decode_arith : allRead
    [ ([0x69, 0x9C], .adcImm 0x9C), ([0x65, 0x9C], .adcZp 0x9C), ([0x75, 0x9C], .adcZpx 0x9C),
      ([0x6D, 0x34, 0x12], .adcAbs 0x1234), ([0x7D, 0x34, 0x12], .adcAbsx 0x1234),
      ([0x79, 0x34, 0x12], .adcAbsy 0x1234), ([0xE9, 0x9C], .sbcImm 0x9C), ([0xE5, 0x9C], .sbcZp 0x9C),
      ([0xF5, 0x9C], .sbcZpx 0x9C), ([0xED, 0x34, 0x12], .sbcAbs 0x1234),
      ([0xFD, 0x34, 0x12], .sbcAbsx 0x1234), ([0xF9, 0x34, 0x12], .sbcAbsy 0x1234) ] = true := by decide

theorem test_decode_logic : allRead
    [ ([0x29, 0x9C], .andImm 0x9C), ([0x25, 0x9C], .andZp 0x9C), ([0x35, 0x9C], .andZpx 0x9C),
      ([0x2D, 0x34, 0x12], .andAbs 0x1234), ([0x3D, 0x34, 0x12], .andAbsx 0x1234),
      ([0x39, 0x34, 0x12], .andAbsy 0x1234), ([0x09, 0x9C], .oraImm 0x9C), ([0x05, 0x9C], .oraZp 0x9C),
      ([0x15, 0x9C], .oraZpx 0x9C), ([0x0D, 0x34, 0x12], .oraAbs 0x1234),
      ([0x1D, 0x34, 0x12], .oraAbsx 0x1234), ([0x19, 0x34, 0x12], .oraAbsy 0x1234),
      ([0x49, 0x9C], .eorImm 0x9C), ([0x45, 0x9C], .eorZp 0x9C), ([0x55, 0x9C], .eorZpx 0x9C),
      ([0x4D, 0x34, 0x12], .eorAbs 0x1234), ([0x5D, 0x34, 0x12], .eorAbsx 0x1234),
      ([0x59, 0x34, 0x12], .eorAbsy 0x1234) ] = true := by decide

theorem test_decode_shift : allRead
    [ ([0x0A], .aslAcc), ([0x06, 0x9C], .aslZp 0x9C), ([0x16, 0x9C], .aslZpx 0x9C),
      ([0x0E, 0x34, 0x12], .aslAbs 0x1234), ([0x1E, 0x34, 0x12], .aslAbsx 0x1234), ([0x4A], .lsrAcc),
      ([0x46, 0x9C], .lsrZp 0x9C), ([0x56, 0x9C], .lsrZpx 0x9C), ([0x4E, 0x34, 0x12], .lsrAbs 0x1234),
      ([0x5E, 0x34, 0x12], .lsrAbsx 0x1234), ([0x2A], .rolAcc), ([0x26, 0x9C], .rolZp 0x9C),
      ([0x36, 0x9C], .rolZpx 0x9C), ([0x2E, 0x34, 0x12], .rolAbs 0x1234),
      ([0x3E, 0x34, 0x12], .rolAbsx 0x1234), ([0x6A], .rorAcc), ([0x66, 0x9C], .rorZp 0x9C),
      ([0x76, 0x9C], .rorZpx 0x9C), ([0x6E, 0x34, 0x12], .rorAbs 0x1234),
      ([0x7E, 0x34, 0x12], .rorAbsx 0x1234) ] = true := by decide

theorem test_decode_compare : allRead
    [ ([0xC9, 0x9C], .cmpImm 0x9C), ([0xC5, 0x9C], .cmpZp 0x9C), ([0xD5, 0x9C], .cmpZpx 0x9C),
      ([0xCD, 0x34, 0x12], .cmpAbs 0x1234), ([0xDD, 0x34, 0x12], .cmpAbsx 0x1234),
      ([0xD9, 0x34, 0x12], .cmpAbsy 0x1234), ([0xE0, 0x9C], .cpxImm 0x9C), ([0xE4, 0x9C], .cpxZp 0x9C),
      ([0xEC, 0x34, 0x12], .cpxAbs 0x1234), ([0xC0, 0x9C], .cpyImm 0x9C), ([0xC4, 0x9C], .cpyZp 0x9C),
      ([0xCC, 0x34, 0x12], .cpyAbs 0x1234) ] = true := by decide

theorem test_decode_loadStore : allRead
    [ ([0xA9, 0x9C], .ldaImm 0x9C), ([0xA5, 0x9C], .ldaZp 0x9C), ([0xB5, 0x9C], .ldaZpx 0x9C),
      ([0xAD, 0x34, 0x12], .ldaAbs 0x1234), ([0xBD, 0x34, 0x12], .ldaAbsx 0x1234),
      ([0xB9, 0x34, 0x12], .ldaAbsy 0x1234), ([0xA2, 0x9C], .ldxImm 0x9C), ([0xA6, 0x9C], .ldxZp 0x9C),
      ([0xB6, 0x9C], .ldxZpy 0x9C), ([0xAE, 0x34, 0x12], .ldxAbs 0x1234),
      ([0xBE, 0x34, 0x12], .ldxAbsy 0x1234), ([0xA0, 0x9C], .ldyImm 0x9C), ([0xA4, 0x9C], .ldyZp 0x9C),
      ([0xB4, 0x9C], .ldyZpx 0x9C), ([0xAC, 0x34, 0x12], .ldyAbs 0x1234),
      ([0xBC, 0x34, 0x12], .ldyAbsx 0x1234), ([0x85, 0x9C], .staZp 0x9C), ([0x95, 0x9C], .staZpx 0x9C),
      ([0x8D, 0x34, 0x12], .staAbs 0x1234), ([0x9D, 0x34, 0x12], .staAbsx 0x1234),
      ([0x99, 0x34, 0x12], .staAbsy 0x1234), ([0x86, 0x9C], .stxZp 0x9C), ([0x96, 0x9C], .stxZpy 0x9C),
      ([0x8E, 0x34, 0x12], .stxAbs 0x1234), ([0x84, 0x9C], .styZp 0x9C), ([0x94, 0x9C], .styZpx 0x9C),
      ([0x8C, 0x34, 0x12], .styAbs 0x1234) ] = true := by decide

theorem test_decode_control : allRead
    [ ([0xEA], .nop), ([0x10, 0x9C], .bpl 0x9C), ([0x30, 0x9C], .bmi 0x9C), ([0x50, 0x9C], .bvc 0x9C),
      ([0x70, 0x9C], .bvs 0x9C), ([0x90, 0x9C], .bcc 0x9C), ([0xB0, 0x9C], .bcs 0x9C),
      ([0xD0, 0x9C], .bne 0x9C), ([0xF0, 0x9C], .beq 0x9C), ([0x4C, 0x34, 0x12], .jmp 0x1234) ] = true := by decide

theorem test_decode_incDec : allRead
    [ ([0xE8], .inx), ([0xC8], .iny), ([0xCA], .dex), ([0x88], .dey) ] = true := by decide

/-- 30_encoding.md R66: no BRK, no indirect JMP, no INC, no CLC. -/
theorem test_decode_refuses_illegal :
    (refusedAs [0x00] (.illegalOpcode 0x00) && refusedAs [0x6C, 0x00, 0x80] (.illegalOpcode 0x6C) &&
      refusedAs [0xE6, 0x10] (.illegalOpcode 0xE6) && refusedAs [0x18] (.illegalOpcode 0x18) &&
      refusedAs [0xFF] (.illegalOpcode 0xFF)) = true := by decide

theorem test_decode_refuses_short :
    (refusedAs [] .truncated && refusedAs [0xA9] .truncated && refusedAs [0x4C, 0x04] .truncated) = true := by
  decide

theorem test_table_word_jmp : decodeTableWord 24 0x80044C = some (.jmp 0x8004) := by decide
theorem test_table_word_one_byte : decodeTableWord 8 0xE8 = some .inx := by decide
theorem test_table_word_operand_zero : decodeTableWord 8 0x69 = some (.adcImm 0x00) := by decide

/-- Placed at the next fetch and run from State.reset: ADC #$01 leaves A at 1 and PC past two bytes. -/
theorem test_withFetchWord_runs :
    gives (State.reset.withFetchWord 16 0x0169) (fun t => t.a == 0x01 && t.pc == 0x0002) = true := by decide

/-! ## Instructions: one step each (95_test_vectors.md 2.3 to 2.9) -/

theorem test_adc1 : gives (running [0x69, 0x01] (a := 0xFF) (p := 0x00))
    (fun t => t.a == 0x00 && t.p == 0x01 && t.pc == 0x8002) = true := by decide
theorem test_adc6 : gives (running [0x69, 0x01] (a := 0xFF) (p := 0x02))
    (fun t => t.a == 0x00 && t.p == 0x03 && t.pc == 0x8002) = true := by decide
theorem test_adc7 : gives (running [0x65, 0x10] (a := 0x20) (p := 0x00) (ram := [(0x010, 0x22)]))
    (fun t => t.a == 0x42 && t.p == 0x00 && t.pc == 0x8002) = true := by decide
theorem test_adc8 : gives (running [0x75, 0xF0] (a := 0x01) (x := 0x20) (p := 0x00) (ram := [(0x010, 0x05)]))
    (fun t => t.a == 0x06 && t.p == 0x00 && t.pc == 0x8002) = true := by decide
theorem test_adc9 : gives (running [0x6D, 0x10, 0x08] (a := 0x01) (p := 0x00) (ram := [(0x010, 0x07)]))
    (fun t => t.a == 0x08 && t.p == 0x00 && t.pc == 0x8003) = true := by decide
theorem test_adc10 : gives (running [0x7D, 0xFF, 0x07] (a := 0x01) (x := 0x02) (p := 0x00) (ram := [(0x001, 0x09)]))
    (fun t => t.a == 0x0A && t.p == 0x00 && t.pc == 0x8003) = true := by decide
theorem test_adc11 : gives (running [0x79, 0x01, 0xFF] (a := 0x01) (y := 0xFF) (p := 0x00) (ram := [(0x000, 0x41)]))
    (fun t => t.a == 0x42 && t.p == 0x00 && t.pc == 0x8003) = true := by decide
theorem test_sbc2 : gives (running [0xE9, 0x03] (a := 0x02) (p := 0x00))
    (fun t => t.a == 0xFF && t.p == 0x01 && t.pc == 0x8002) = true := by decide
theorem test_sbc5 : gives (running [0xE9, 0xFF] (a := 0x00) (p := 0x01))
    (fun t => t.a == 0x00 && t.p == 0x01 && t.pc == 0x8002) = true := by decide
theorem test_sbc8 : gives (running [0xE5, 0x10] (a := 0x50) (p := 0x03) (ram := [(0x010, 0x20)]))
    (fun t => t.a == 0x2F && t.p == 0x02 && t.pc == 0x8002) = true := by decide
theorem test_and1 : gives (running [0x29, 0x0F] (a := 0xF5) (p := 0x01))
    (fun t => t.a == 0x05 && t.p == 0x01 && t.pc == 0x8002) = true := by decide
theorem test_and3 : gives (running [0x25, 0x10] (a := 0xAA) (ram := [(0x010, 0xCC)]))
    (fun t => t.a == 0x88 && t.pc == 0x8002) = true := by decide
theorem test_ora1 : gives (running [0x09, 0x80] (a := 0x01) (p := 0x00))
    (fun t => t.a == 0x81 && t.p == 0x00 && t.pc == 0x8002) = true := by decide
theorem test_ora3 : gives (running [0x1D, 0x00, 0x02] (a := 0x0F) (x := 0x01) (ram := [(0x201, 0xF0)]))
    (fun t => t.a == 0xFF && t.pc == 0x8003) = true := by decide
theorem test_eor2 : gives (running [0x49, 0xAA] (a := 0xAA) (p := 0x00))
    (fun t => t.a == 0x00 && t.p == 0x00 && t.pc == 0x8002) = true := by decide
theorem test_eor3 : gives (running [0x59, 0x00, 0x03] (a := 0x01) (y := 0x10) (ram := [(0x310, 0x03)]))
    (fun t => t.a == 0x02 && t.pc == 0x8003) = true := by decide
theorem test_asl1 : gives (running [0x0A] (a := 0x81) (p := 0x00))
    (fun t => t.a == 0x02 && t.p == 0x01 && t.pc == 0x8001) = true := by decide
theorem test_asl2 : gives (running [0x0A] (a := 0x40) (p := 0x01))
    (fun t => t.a == 0x80 && t.p == 0x00 && t.pc == 0x8001) = true := by decide
theorem test_asl3 : gives (running [0x06, 0x10] (p := 0x00) (ram := [(0x010, 0xFF)]))
    (fun t => t.p == 0x01 && t.ram.read 0x010 == 0xFE && t.pc == 0x8002) = true := by decide
theorem test_asl4 : gives (running [0x1E, 0x00, 0x02] (x := 0x03) (p := 0x02) (ram := [(0x203, 0x80)]))
    (fun t => t.p == 0x03 && t.ram.read 0x203 == 0x00 && t.pc == 0x8003) = true := by decide
theorem test_lsr1 : gives (running [0x4A] (a := 0x01) (p := 0x00))
    (fun t => t.a == 0x00 && t.p == 0x01 && t.pc == 0x8001) = true := by decide
theorem test_lsr2 : gives (running [0x4A] (a := 0x80) (p := 0x01))
    (fun t => t.a == 0x40 && t.p == 0x00 && t.pc == 0x8001) = true := by decide
theorem test_lsr3 : gives (running [0x56, 0x10] (x := 0x01) (p := 0x00) (ram := [(0x011, 0x03)]))
    (fun t => t.p == 0x01 && t.ram.read 0x011 == 0x01 && t.pc == 0x8002) = true := by decide
theorem test_rol2 : gives (running [0x2A] (a := 0x00) (p := 0x01))
    (fun t => t.a == 0x01 && t.p == 0x00 && t.pc == 0x8001) = true := by decide
theorem test_rol3 : gives (running [0x2A] (a := 0xFF) (p := 0x01))
    (fun t => t.a == 0xFF && t.p == 0x01 && t.pc == 0x8001) = true := by decide
theorem test_rol4 : gives (running [0x2E, 0x00, 0x02] (p := 0x01) (ram := [(0x200, 0x55)]))
    (fun t => t.p == 0x00 && t.ram.read 0x200 == 0xAB && t.pc == 0x8003) = true := by decide
theorem test_ror1 : gives (running [0x6A] (a := 0x01) (p := 0x00))
    (fun t => t.a == 0x00 && t.p == 0x01 && t.pc == 0x8001) = true := by decide
theorem test_ror2 : gives (running [0x6A] (a := 0x00) (p := 0x01))
    (fun t => t.a == 0x80 && t.p == 0x00 && t.pc == 0x8001) = true := by decide
theorem test_ror4 : gives (running [0x66, 0x10] (p := 0x01) (ram := [(0x010, 0x02)]))
    (fun t => t.p == 0x00 && t.ram.read 0x010 == 0x81 && t.pc == 0x8002) = true := by decide
theorem test_ror5 : gives (running [0x7E, 0xFE, 0x07] (x := 0x03) (p := 0x00) (ram := [(0x001, 0x01)]))
    (fun t => t.p == 0x01 && t.ram.read 0x001 == 0x00 && t.pc == 0x8003) = true := by decide
theorem test_shs1 : gives (running [0x0E, 0x00, 0x80] (p := 0x00))
    (fun t => t.p == 0x00 && t.ram == [] && t.pc == 0x8003) = true := by decide
theorem test_shs2 : gives (running [0x4E, 0x00, 0x20] (p := 0x01))
    (fun t => t.p == 0x00 && t.pc == 0x8003) = true := by decide
theorem test_cmp1 : gives (running [0xC9, 0x10] (a := 0x10) (p := 0x00))
    (fun t => t.p == 0x03 && t.pc == 0x8002) = true := by decide
theorem test_cmp2 : gives (running [0xC9, 0x11] (a := 0x10) (p := 0x03))
    (fun t => t.p == 0x00 && t.pc == 0x8002) = true := by decide
theorem test_cmp7 : gives (running [0xD9, 0x00, 0x02] (a := 0x80) (y := 0x02) (ram := [(0x202, 0x7F)]))
    (fun t => t.p == 0x01 && t.pc == 0x8003) = true := by decide
theorem test_cpx1 : gives (running [0xE0, 0x00] (x := 0x00) (p := 0x00))
    (fun t => t.p == 0x03 && t.pc == 0x8002) = true := by decide
theorem test_cpx2 : gives (running [0xE0, 0x05] (x := 0x04) (p := 0x01))
    (fun t => t.p == 0x00 && t.pc == 0x8002) = true := by decide
theorem test_cpx3 : gives (running [0xE4, 0x10] (x := 0x80) (ram := [(0x010, 0x80)]))
    (fun t => t.p == 0x03 && t.pc == 0x8002) = true := by decide
theorem test_cpx4 : gives (running [0xEC, 0x00, 0x02] (x := 0x81) (ram := [(0x200, 0x80)]))
    (fun t => t.p == 0x01 && t.pc == 0x8003) = true := by decide
theorem test_cpy1 : gives (running [0xC0, 0x04] (y := 0x04) (p := 0x00))
    (fun t => t.p == 0x03 && t.pc == 0x8002) = true := by decide
theorem test_cpy2 : gives (running [0xC0, 0x04] (y := 0x03) (p := 0x03))
    (fun t => t.p == 0x00 && t.pc == 0x8002) = true := by decide
theorem test_cpy3 : gives (running [0xC4, 0x10] (y := 0xFF) (ram := [(0x010, 0x01)]))
    (fun t => t.p == 0x01 && t.pc == 0x8002) = true := by decide
theorem test_cpy4 : gives (running [0xCC, 0x00, 0x08] (y := 0x01) (ram := [(0x000, 0x02)]))
    (fun t => t.p == 0x00 && t.pc == 0x8003) = true := by decide
theorem test_lda1 : gives (running [0xA9, 0x00] (a := 0x55) (p := 0x00))
    (fun t => t.a == 0x00 && t.p == 0x00 && t.pc == 0x8002) = true := by decide
theorem test_lda2 : gives (running [0xA9, 0x80] (a := 0x00) (p := 0x03))
    (fun t => t.a == 0x80 && t.p == 0x03 && t.pc == 0x8002) = true := by decide
theorem test_lda3 : gives (running [0xA5, 0x10] (ram := [(0x010, 0x77)]))
    (fun t => t.a == 0x77 && t.pc == 0x8002) = true := by decide
theorem test_lda4 : gives (running [0xB5, 0xFF] (x := 0x01) (ram := [(0x000, 0x11), (0x100, 0x22)]))
    (fun t => t.a == 0x11 && t.pc == 0x8002) = true := by decide
theorem test_lda5 : gives (running [0xAD, 0x00, 0x20] (a := 0x55))
    (fun t => t.a == 0x00 && t.pc == 0x8003) = true := by decide
theorem test_lda7 : gives (running ([0xAD, 0x20, 0xC0] ++ List.replicate 29 0x00 ++ [0xDE]))
    (fun t => t.a == 0xDE && t.pc == 0x8003) = true := by decide
theorem test_lda8 : gives (running [0xBD, 0x00, 0x18] (x := 0x05) (ram := [(0x005, 0x99)]))
    (fun t => t.a == 0x99 && t.pc == 0x8003) = true := by decide
theorem test_lda9 : gives (running [0xB9, 0xF0, 0xFF] (y := 0x20) (ram := [(0x010, 0x5A)]))
    (fun t => t.a == 0x5A && t.pc == 0x8003) = true := by decide
theorem test_ldx1 : gives (running [0xA2, 0xFF] (x := 0x00))
    (fun t => t.x == 0xFF && t.p == 0x00 && t.pc == 0x8002) = true := by decide
theorem test_ldx2 : gives (running [0xB6, 0x10] (y := 0xF8) (ram := [(0x008, 0x33)]))
    (fun t => t.x == 0x33 && t.pc == 0x8002) = true := by decide
theorem test_ldx3 : gives (running [0xBE, 0x00, 0x02] (y := 0x02) (ram := [(0x202, 0x44)]))
    (fun t => t.x == 0x44 && t.pc == 0x8003) = true := by decide
theorem test_ldx4 : gives (running [0xA6, 0x10] (x := 0x09) (p := 0x00))
    (fun t => t.x == 0x00 && t.p == 0x00 && t.pc == 0x8002) = true := by decide
theorem test_ldx5 : gives (running [0xAE, 0x34, 0x12] (ram := [(0x234, 0x12)]))
    (fun t => t.x == 0x12 && t.pc == 0x8003) = true := by decide
theorem test_ldy1 : gives (running [0xA0, 0x04] (y := 0x00))
    (fun t => t.y == 0x04 && t.pc == 0x8002) = true := by decide
theorem test_ldy2 : gives (running [0xB4, 0x10] (x := 0x02) (ram := [(0x012, 0x66)]))
    (fun t => t.y == 0x66 && t.pc == 0x8002) = true := by decide
theorem test_ldy3 : gives (running [0xBC, 0x00, 0x02] (x := 0xFF) (ram := [(0x2FF, 0x0C)]))
    (fun t => t.y == 0x0C && t.pc == 0x8003) = true := by decide
theorem test_ldy4 : gives (running [0xA4, 0x10] (ram := [(0x010, 0x80)]))
    (fun t => t.y == 0x80 && t.p == 0x00 && t.pc == 0x8002) = true := by decide
theorem test_ldy5 : gives (running [0xAC, 0x00, 0x60] (y := 0x07))
    (fun t => t.y == 0x00 && t.pc == 0x8003) = true := by decide
theorem test_sta1 : gives (running [0x85, 0x10] (a := 0xAB))
    (fun t => t.ram.read 0x010 == 0xAB && t.pc == 0x8002) = true := by decide
theorem test_sta2 : gives (running [0x95, 0xFF] (a := 0xCD) (x := 0x02))
    (fun t => t.ram.read 0x001 == 0xCD && t.pc == 0x8002) = true := by decide
theorem test_sta3 : gives (running [0x8D, 0x00, 0x0A] (a := 0x12))
    (fun t => t.ram.read 0x200 == 0x12 && t.pc == 0x8003) = true := by decide
theorem test_sta4 : gives (running [0x8D, 0x20, 0x80] (a := 0x12))
    (fun t => t.ram == [] && t.pc == 0x8003) = true := by decide
theorem test_sta6 : gives (running [0x9D, 0xFF, 0x1F] (a := 0x34) (x := 0x01))
    (fun t => t.ram == [] && t.pc == 0x8003) = true := by decide
theorem test_sta7 : gives (running [0x99, 0x00, 0x0A] (a := 0x56) (y := 0x03))
    (fun t => t.ram.read 0x203 == 0x56 && t.pc == 0x8003) = true := by decide
theorem test_stx1 : gives (running [0x86, 0x10] (x := 0x03))
    (fun t => t.ram.read 0x010 == 0x03 && t.pc == 0x8002) = true := by decide
theorem test_stx2 : gives (running [0x96, 0x10] (x := 0x04) (y := 0xF0))
    (fun t => t.ram.read 0x000 == 0x04 && t.pc == 0x8002) = true := by decide
theorem test_stx3 : gives (running [0x8E, 0xFF, 0x07] (x := 0x05))
    (fun t => t.ram.read 0x7FF == 0x05 && t.pc == 0x8003) = true := by decide
theorem test_sty1 : gives (running [0x84, 0x10] (y := 0x06))
    (fun t => t.ram.read 0x010 == 0x06 && t.pc == 0x8002) = true := by decide
theorem test_sty2 : gives (running [0x94, 0x10] (y := 0x07) (x := 0x01))
    (fun t => t.ram.read 0x011 == 0x07 && t.pc == 0x8002) = true := by decide
theorem test_sty3 : gives (running [0x8C, 0x00, 0x10] (y := 0x08))
    (fun t => t.ram.read 0x000 == 0x08 && t.pc == 0x8003) = true := by decide
theorem test_nop1 : gives (running [0xEA] (a := 0x01) (x := 0x02) (y := 0x03) (p := 0x03))
    (fun t => t.a == 0x01 && t.x == 0x02 && t.y == 0x03 && t.p == 0x03 && t.pc == 0x8001) = true := by decide
theorem test_bpl1 : gives (running [0x10, 0x02] (p := 0x00) (pc := 0x8019))
    (fun t => t.p == 0x00 && t.pc == 0x801D) = true := by decide
theorem test_bpl2 : gives (running [0x10, 0xFF] (a := 0x80) (p := 0x00))
    (fun t => t.p == 0x00 && t.pc == 0x8101) = true := by decide
theorem test_bmi1 : gives (running [0x30, 0x7F] (a := 0x80) (p := 0x00) (pc := 0x8017))
    (fun t => t.p == 0x00 && t.pc == 0x8019) = true := by decide
theorem test_bvc1 : gives (running [0x50, 0x00] (p := 0x00) (pc := 0x9000))
    (fun t => t.p == 0x00 && t.pc == 0x9002) = true := by decide
theorem test_bvs1 : gives (running [0x70, 0x10] (p := 0x00) (pc := 0x9000))
    (fun t => t.p == 0x00 && t.pc == 0x9002) = true := by decide
theorem test_bcc1 : gives (running [0x90, 0x01] (p := 0x00) (pc := 0x8014))
    (fun t => t.p == 0x00 && t.pc == 0x8017) = true := by decide
theorem test_bcc2 : gives (running [0x90, 0x01] (p := 0x01) (pc := 0x8014))
    (fun t => t.p == 0x01 && t.pc == 0x8016) = true := by decide
theorem test_bcs1 : gives (running [0xB0, 0x01] (p := 0x00) (pc := 0x800A))
    (fun t => t.p == 0x00 && t.pc == 0x800C) = true := by decide
theorem test_bcs2 : gives (running [0xB0, 0x80] (p := 0x01))
    (fun t => t.p == 0x01 && t.pc == 0x8082) = true := by decide
theorem test_bne2 : gives (running [0xD0, 0x05] (p := 0x02))
    (fun t => t.p == 0x02 && t.pc == 0x8002) = true := by decide
theorem test_bne3 : gives (running [0xD0, 0xFF] (p := 0x00) (pc := 0xFFF0))
    (fun t => t.p == 0x00 && t.pc == 0x00F1) = true := by decide
theorem test_beq1 : gives (running [0xF0, 0x08] (p := 0x02) (pc := 0x8006))
    (fun t => t.p == 0x02 && t.pc == 0x8010) = true := by decide
theorem test_beq3 : gives (running [0xF0, 0xFE] (p := 0x03))
    (fun t => t.p == 0x03 && t.pc == 0x8100) = true := by decide
theorem test_jmp1 : gives (running [0x4C, 0x04, 0x80] (pc := 0x800D))
    (fun t => t.pc == 0x8004) = true := by decide
theorem test_inx1 : gives (running [0xE8] (x := 0x7F) (p := 0x00))
    (fun t => t.x == 0x80 && t.p == 0x00 && t.pc == 0x8001) = true := by decide
theorem test_inx2 : gives (running [0xE8] (x := 0xFF) (p := 0x00))
    (fun t => t.x == 0x00 && t.p == 0x00 && t.pc == 0x8001) = true := by decide
theorem test_iny1 : gives (running [0xC8] (y := 0x03))
    (fun t => t.y == 0x04 && t.pc == 0x8001) = true := by decide
theorem test_iny2 : gives (running [0xC8] (y := 0xFF) (p := 0x03))
    (fun t => t.y == 0x00 && t.p == 0x03 && t.pc == 0x8001) = true := by decide
theorem test_dex1 : gives (running [0xCA] (x := 0x03))
    (fun t => t.x == 0x02 && t.pc == 0x8001) = true := by decide
theorem test_dex2 : gives (running [0xCA] (x := 0x00))
    (fun t => t.x == 0xFF && t.pc == 0x8001) = true := by decide
theorem test_dey1 : gives (running [0x88] (y := 0x00))
    (fun t => t.y == 0xFF && t.pc == 0x8001) = true := by decide
theorem test_dey2 : gives (running [0x88] (y := 0x80))
    (fun t => t.y == 0x7F && t.pc == 0x8001) = true := by decide

/-- JMP4: the third byte is fetched from 0x0000. -/
theorem test_jmp4 : gives (running [0x4C, 0x34] (ram := [(0x000, 0x12)]) (pc := 0xFFFE))
    (fun t => t.pc == 0x1234) = true := by decide
theorem test_top1 : gives (running [0xA9] (ram := [(0x000, 0x07)]) (pc := 0xFFFF))
    (fun t => t.a == 0x07 && t.pc == 0x0001) = true := by decide
theorem test_run1 : gives (constructed Cartridge.blank (Config.ramInit.set 0 0xA9 |>.set 1 0x07))
    (fun t => t.a == 0x07 && t.pc == 0x0002) = true := by decide

/-- ILL1, with S6: the registers stay, PC among them, and the record names the address and the byte. -/
theorem test_ill1 : gives (running [0xFF] 0x01 0x02 0x03 0x03) (fun t =>
    t.halt == some ⟨.illegalOpcode, 0x8000, 0xFF⟩ && t.a == 0x01 && t.pc == 0x8000) = true := by decide
theorem test_ill2 : stepReport (running [0x6C, 0x00, 0x80] 0x01) =
    some ⟨.illegalOpcode, 0x8000, 0x6C⟩ := by decide
theorem test_ill4 : gives (running [0xE6, 0x10] (ram := [(0x010, 0x05)])) (fun t =>
    t.ram.read 0x010 == 0x05 && t.pc == 0x8000 && t.halt == some ⟨.illegalOpcode, 0x8000, 0xE6⟩) = true := by
  decide
theorem test_ill5 : stepReport (after (running [0xFF])) = some ⟨.illegalOpcode, 0x8000, 0xFF⟩ := by decide
theorem test_ill6 : (hostReset (after (running [0xFF]))).pc = 0x8000 := by decide

/-- P5: code in RAM, no `reset()`; the third step ends the run. -/
theorem test_p5 :
    readRegisters (hostRun 5 { State.reset with ram := [(0, 0xA2), (1, 0x05), (2, 0xE8), (3, 0xFF)] }) =
      { a := 0x00, x := 0x06, y := 0x00, sp := 0x00, p := 0x00, pc := 0x0003 } := by decide

/-! ## The bus (95_test_vectors.md part 1 and 2.1) -/

theorem test_m1 : loadb (storeb State.reset 0x07FF 0x11) 0x1FFF = 0x11 := by decide
theorem test_s1 : loadb (storeb State.reset 0x1923 0xCD) 0x0123 = 0xCD := by decide
theorem test_m2 : loadb (storeb State.reset 0x2000 0x22) 0x2000 = 0x00 := by decide
theorem test_m3 :
    [0x3FFF, 0x4000, 0x401F, 0x4020, 0x5FFF, 0x6000, 0x7FFF].map (loadb State.reset) =
      [0x00, 0x00, 0x00, 0x00, 0x00, 0x00, 0x00] := by decide
theorem test_m5 : loadb (storeb (running [0xA9]) 0x8000 0x55) 0x8000 = 0xA9 := by decide
theorem test_m6 : [0xFFFF, 0xBFFF].map (loadb (running [0x77] (pc := 0xFFFF))) = [0x77, 0x77] := by decide

/-- Two PRG banks: PRG byte 0 is 01, PRG byte 4000 is 02, PRG byte 7FFF is 77. -/
def twoBanks : State :=
  { State.reset with
    cart := { header := { Header.blank with prgBanks := 2 },
              prg := [(0x0000, 0x01), (0x4000, 0x02), (0x7FFF, 0x77)], chr := [] } }

theorem test_m7 : [0x8000, 0xC000].map (loadb twoBanks) = [0x01, 0x02] := by decide
theorem test_m8 : loadw (running [0x34] (ram := [(0x000, 0x12)]) (pc := 0xFFFF)) 0xFFFF = 0x1234 := by decide
theorem test_m9 : loadw { State.reset with ram := [(0x000, 0xAB), (0x7FF, 0xCD)] } 0x07FF = 0xABCD := by
  decide
theorem test_m10 : (storew State.reset 0x1FFF 0xBEEF).ram = [(0x7FF, 0xEF)] := by decide

/-- S4: the reset vector 34 12 gives PC 1234. -/
theorem test_s4 : (hostReset (running [0x34, 0x12] (pc := 0xFFFC))).pc = 0x1234 := by decide

/-! ## The parser (95_test_vectors.md 2.2) -/

/-- A 16-byte header with these bank counts and flags6. -/
def h (p c f6 : Byte) : List Byte :=
  [0x4E, 0x45, 0x53, 0x1A, p, c, f6, 0x00, 0x00, 0x00, 0x00, 0x00, 0x00, 0x00, 0x00, 0x00]

theorem test_k4 (rest : List Byte) (hr : rest.length = 511) :
    parse (h 0x01 0x00 0x04 ++ rest) = .error .truncatedTrainer := by
  simp [parse, h, Header.ofImage, Header.trainerLength, Config.magic, Config.headerSize,
    Config.trainerSize, hr]
theorem test_k5 (rest : List Byte) (hr : rest.length = 16383) :
    parse (h 0x01 0x00 0x00 ++ rest) = .error .truncatedPrg := by
  simp [parse, h, Header.ofImage, Header.trainerLength, Header.prgLength, Config.magic,
    Config.headerSize, Config.prgBankSize, hr]
theorem test_k6 (rest : List Byte) (hr : rest.length = 16384 + 8191) :
    parse (h 0x01 0x01 0x00 ++ rest) = .error .truncatedChr := by
  simp [parse, h, Header.ofImage, Header.trainerLength, Header.prgLength, Header.chrLength, Config.magic,
    Config.headerSize, Config.prgBankSize, Config.chrBankSize, hr]
theorem test_k3 (rest : List Byte) (hr : rest.length = 512 + 16384) :
    ∃ c, parse (h 0x01 0x00 0x04 ++ rest) = .ok c ∧ c.header.prgBanks = 1 := by
  refine ⟨_, parse_eq_ok.2 ⟨{ Header.blank with flags6 := 0x04 }, rfl, rfl, ?_, rfl⟩, rfl⟩
  rw [List.length_append, hr]
  decide
theorem test_k7 : failsAs ((h 0x01 0x00 0x00).take 15) .truncatedHeader = true := by decide
theorem test_k8 : failsAs [] .truncatedHeader = true := by decide
theorem test_k12 : newCpu (h 0x00 0x00 0x00) = .refused 0x00 := by decide
theorem test_k15 : failsAs ([0x6E, 0x65, 0x73, 0x1A] ++ List.replicate 12 0x00) .badMagic = true := by decide

/-! ## Witnesses: the hypotheses of the obligations can be met -/

/-- A running machine with a program in PRG and a byte in RAM: LDA #$05. -/
def demo : State := running [0xA9, 0x05] 0x01 0x02 0x03 0x03 [(0x010, 0x05)]

/-- It halted on an illegal byte. -/
def demoHalted : State := after (running [0xFF] 0x01 0x02 0x03 0x03)

/-- The same machine as `demo` to the bus, with another CHR and another uninterpreted header byte. -/
def demoTwin : State :=
  { demo with cart := { demo.cart with
      header := { demo.cart.header with chrBanks := 1, flags9 := 0x7F }, chr := [(0x0000, 0x33)] } }

/-- EncodeOfDecodeGivesTheBytes. -/
theorem test_witness_decode_with_rest : decode [0x4C, 0x04, 0x80, 0xEA] = .ok (.jmp 0x8004, [0xEA]) := by rfl

/-- LengthDependsOnTheOpcodeAlone. -/
theorem test_witness_same_opcode :
    decode [0xA9, 0x10, 0xEA] = .ok (.ldaImm 0x10, [0xEA]) ∧ decode [0xA9, 0x11] = .ok (.ldaImm 0x11, []) :=
  ⟨rfl, rfl⟩

/-- LoadReadsItsRegion, each clause at the ends of its range: RAM, stub, stub, PRG. -/
theorem test_witness_load_regions :
    ((0x0000 : Addr).toNat ≤ 0x1FFF ∧ (0x1FFF : Addr).toNat ≤ 0x1FFF) ∧
      (0x2000 ≤ (0x2000 : Addr).toNat ∧ (0x2000 : Addr).toNat ≤ 0x7FFF) ∧
      (0x2000 ≤ (0x7FFF : Addr).toNat ∧ (0x7FFF : Addr).toNat ≤ 0x7FFF) ∧
      0x8000 ≤ (0x8000 : Addr).toNat ∧ 0x8000 ≤ (0xFFFF : Addr).toNat := by decide

/-- StoreWritesAtMostOneRamByte and the discard clauses of the stores, shifts and rotates (`Stored`,
`ShiftedAt`): the first and the last address outside RAM, and both arms of the read at 0x1FFF. -/
theorem test_witness_store_outside_ram :
    0x2000 ≤ (0x2000 : Addr).toNat ∧ 0x2000 ≤ (0xFFFF : Addr).toNat ∧
      SameRamByte 0x1FFF 0x07FF ∧ ¬ SameRamByte 0x1FFF 0x2000 ∧ ¬ SameRamByte 0x1FFF 0x07FE := by decide

/-- RamIsMirroredFourTimes, at the ends of its ranges: 0x7FF + 3 * 0x800 is 0x1FFF, and 0xFF is in page
zero. -/
theorem test_witness_mirrors :
    (0x7FF < 0x800 ∧ 3 < 4 ∧ 0 < 4 ∧ 0x7FF + 3 * 0x800 = 0x1FFF) ∧ 0xFF < 0x800 ∧ 0xFF < 0x100 := by decide

/-- PrgIsMirroredOrLinear, both clauses at the last byte. -/
theorem test_witness_prg_banks :
    (demo.cart.header.prgBanks = 1 ∧ 0x3FFF < 0x4000) ∧ twoBanks.cart.header.prgBanks = 2 ∧ 0x7FFF < 0x8000 :=
  by decide

/-- WordsAreLittleEndian, the read-back clause at its last address. -/
theorem test_witness_word_in_ram : (0x1FFE : Addr).toNat < 0x1FFF := by decide

/-- One bank of 0xEA bytes with a trainer before it parses: ParsedCartridgeHoldsTheImage and the first
clause of NewZeroesRegistersAndTakesRamInit. -/
theorem test_witness_parse_ok :
    ∃ c, parse (h 0x01 0x00 0x04 ++ List.replicate (512 + 16384) 0xEA) = .ok c ∧ c.header.prgBanks = 1 :=
  test_k3 _ List.length_replicate

/-- NewZeroesRegistersAndTakesRamInit, the other two clauses: no banks, and no image. -/
theorem test_witness_new_refused :
    (∃ c, parse (h 0x00 0x00 0x00) = .ok c ∧ c.header.prgBanks ≠ 1 ∧ c.header.prgBanks ≠ 2) ∧
      ∃ e, parse [] = .error e :=
  ⟨⟨_, parse_eq_ok.2 ⟨{ Header.blank with prgBanks := 0 }, rfl, rfl, by decide, rfl⟩, by decide, by decide⟩,
    _, rfl⟩

/-- NewCpuMeetsTheInvariant: that image gives a CPU. -/
theorem test_witness_new_ready :
    ∃ s, newCpu (h 0x01 0x00 0x04 ++ List.replicate (512 + 16384) 0xEA) = .ready s := by
  obtain ⟨c, hc, hb⟩ := test_witness_parse_ok
  exact ⟨constructed c Config.ramInit, by rw [newCpu, hc]; exact if_pos (.inl hb)⟩

/-- ResetReloadsOnlyThePc, both clauses. -/
theorem test_witness_running_and_halted : demo.halt = none ∧ demoHalted.halt ≠ none := by decide

/-- ResetVectorNeverChanges: one step to a running machine. -/
theorem test_witness_run : ∃ t, Host.Core.run Sys2Proof.core 1 demo = .next t ∧ t.halt = none := ⟨_, rfl, rfl⟩

/-- StepRunsTheDecodedInstruction, each clause: halted, illegal, decoded. -/
theorem test_witness_step_clauses :
    (∃ r, demoHalted.halt = some r) ∧
      ((running [0xFF]).halt = none ∧ decode [0xFF, 0x00, 0x00] = .error (.illegalOpcode 0xFF) ∧
        [0, 1, 2].map (fun k => loadb (running [0xFF]) (0x8000 + k)) = [0xFF, 0x00, 0x00]) ∧
      demo.halt = none ∧ decode [0xA9, 0x05, 0x00] = .ok (.ldaImm 0x05, [0x00]) ∧
        [0, 1, 2].map (fun k => loadb demo (0x8000 + k)) = [0xA9, 0x05, 0x00] :=
  ⟨⟨_, rfl⟩, ⟨rfl, rfl, by decide⟩, rfl, rfl, by decide⟩

/-- IllegalOpcodeHaltsInPlace. -/
theorem test_witness_illegal_at_pc :
    (running [0xFF]).halt = none ∧ loadb (running [0xFF]) (running [0xFF]).pc ∈ illegalBytes := by decide

/-- HaltIsAbsorbing. -/
theorem test_witness_halted : demoHalted.halt = some ⟨.illegalOpcode, 0x8000, 0xFF⟩ := by decide

/-- StepKeepsTheInvariant, NewCpuMeetsTheInvariant's second clause and BranchesOnUnwrittenFlagsAreFixed: a
running machine meets Inv and steps. -/
theorem test_witness_inv : Inv demo ∧ ∃ t, step demo = .next t :=
  ⟨{ ramWf := by decide, ramBound := by decide, sp := rfl, p := by decide,
     cart := { magic := rfl, banks := .inl rfl, prgWf := by decide, prgBound := by decide, chrWf := rfl,
               chrBound := rfl },
     halt := fun _ hr => by cases hr }, _, rfl⟩

/-- StepKeepsTheInvariant, a halted machine: its record is sound. -/
theorem test_witness_halt_sound : HaltSound demoHalted := by
  intro r hr
  cases hr
  exact ⟨rfl, rfl, by decide, by decide⟩

/-- HaltIsSetOnlyByAnIllegalOpcode and StepTouchesNeitherCartridgeNorStackPointer: a step that halts and
one that does not. -/
theorem test_witness_steps :
    (∃ t, step (running [0xFF]) = .next t ∧ t.halt ≠ none) ∧ ∃ t, step demo = .next t ∧ t.halt = none :=
  ⟨⟨_, rfl, by decide⟩, _, rfl, rfl⟩

/-- StepDependsOnlyOnTheBusView: two different states that look alike. -/
theorem test_witness_same_view : SameView demo demoTwin ∧ demo ≠ demoTwin :=
  ⟨⟨rfl, rfl, rfl, rfl, rfl, rfl, rfl, fun _ => rfl⟩, by decide⟩

/-- StoreIsSeenByTheNextFetch: each store, on the last byte of RAM, is stored where PC moves to. -/
theorem test_witness_store_then_fetch :
    ∀ i ∈ [Instr.staAbs 0x07FF, .stxAbs 0x07FF, .styAbs 0x07FF],
      ∃ t, exec i (running [] 0x01 0x02 0x03 (pc := 0x1FFC)) = .next t ∧ SameRamByte 0x07FF t.pc := by
  intro i hi
  simp only [List.mem_cons, List.not_mem_nil, or_false] at hi
  rcases hi with rfl | rfl | rfl <;> exact ⟨_, rfl, by decide⟩

/-- RegistersChangeOnlyByTheirWriters, FlagsChangeOnlyByTheirWriters and PcPassesTheInstruction: LDX writes
no A and no Y, LDY no X, neither a flag, and each is one whose PC only moves past it. -/
theorem test_witness_frames :
    (∃ t, exec (.ldxImm 0x05) demo = .next t) ∧ (∃ t, exec (.ldyImm 0x05) demo = .next t) ∧
      writesA (.ldxImm 0x05) = false ∧ writesY (.ldxImm 0x05) = false ∧ writesX (.ldyImm 0x05) = false ∧
      (Instr.ldxImm 0x05).mnemonic ∉ Flag.c.writers ∧ (Instr.ldxImm 0x05).mode ≠ .rel ∧
      (Instr.ldxImm 0x05).mnemonic ≠ .jmp :=
  ⟨⟨_, rfl⟩, ⟨_, rfl⟩, by decide, by decide, by decide, by decide, by decide, by decide⟩

/-- MemoryChangesOnlyAtTheStoreAddress: a store and an address that is not its own, and a form that stores
nothing. -/
theorem test_witness_memory_frame :
    (∃ t, exec (.staAbs 0x0A00) demo = .next t) ∧ storeEa (.staAbs 0x0A00) demo = some 0x0A00 ∧
      ¬ SameRamByte 0x0A00 0x0201 ∧ (∃ t, exec (.ldaZp 0x10) demo = .next t) ∧
      storeEa (.ldaZp 0x10) demo = none :=
  ⟨⟨_, rfl⟩, rfl, by decide, ⟨_, rfl⟩, rfl⟩

end Sys2Proof.Tests
end

section
/-! PROOFS. The memory map (20_memory.md R31, R32, R34): what a load reads in each range of addresses,
what a store leaves unchanged, and the mirrors of RAM; each said in numbers, once. -/

namespace Sys2Proof.Machine

/-! ## A load, by the range of its address (R31) -/

theorem loadb_of_le_0x1FFF (s : State) {addr : Addr} (h : addr.toNat ≤ 0x1FFF) :
    loadb s addr = s.ram.read (addr.toNat % 0x800) := by
  rw [← ramIndex_eq, loadb, (region_ram_iff addr).mpr h]

theorem loadb_of_stub (s : State) {addr : Addr} (hlo : 0x2000 ≤ addr.toNat) (hhi : addr.toNat ≤ 0x7FFF) :
    loadb s addr = 0x00 := by
  have hram : region addr ≠ .ram := fun h => by
    have := (region_ram_iff addr).mp h
    omega
  have hprg : region addr ≠ .prg := fun h => by
    have := (region_prg_iff addr).mp h
    omega
  unfold loadb
  cases hr : region addr with
  | ram => exact absurd hr hram
  | prg => exact absurd hr hprg
  | stubA | stubB | expansionStub | sramStub => rfl

theorem loadb_of_0x8000_le (s : State) {addr : Addr} (h : 0x8000 ≤ addr.toNat) :
    loadb s addr = prgRead s.cart addr := by
  rw [loadb, (region_prg_iff addr).mpr h]

/-! ## A store: its frame, and what is read after it (R32) -/

/-- A store is a change of RAM at most, wherever its address lies. -/
theorem storeb_eq_with_ram (s : State) (ea : Addr) (v : Byte) :
    storeb s ea v = { s with ram := (storeb s ea v).ram } := by
  rw [storeb_eq]
  split <;> rfl

theorem storeb_of_0x2000_le (s : State) {ea : Addr} (v : Byte) (h : 0x2000 ≤ ea.toNat) :
    storeb s ea v = s := by
  have hram : region ea ≠ .ram := fun hr => by
    have := (region_ram_iff ea).mp hr
    omega
  rw [storeb_eq, if_neg hram]

/-- `SameRamByte` in the terms of the bus. -/
theorem sameRamByte_iff (ea addr : Addr) :
    SameRamByte ea addr ↔ region ea = .ram ∧ region addr = .ram ∧ ramIndex addr = ramIndex ea := by
  rw [region_ram_iff, region_ram_iff, ramIndex_eq, ramIndex_eq, eq_comm (a := addr.toNat % 0x800)]

/-- A load after a store, in the terms of `SameRamByte`. -/
theorem loadb_storeb_sameRamByte (s : State) (ea addr : Addr) (v : Byte) :
    loadb (storeb s ea v) addr = if SameRamByte ea addr then v else loadb s addr := by
  simp only [loadb_storeb, sameRamByte_iff]

/-! ## The mirrors of RAM (R34) -/

/-- Addresses that name one RAM byte read alike. -/
theorem SameRamByte.loadb_eq {ea addr : Addr} (h : SameRamByte ea addr) (s : State) :
    loadb s ea = loadb s addr := by
  obtain ⟨hea, haddr, hmod⟩ := h
  rw [loadb_of_le_0x1FFF s hea, loadb_of_le_0x1FFF s haddr, hmod]

/-- The address of RAM byte `a` in its mirror `j` names that byte. -/
theorem toNat_mirror {a j : Nat} (ha : a < 0x800) (hj : j < 4) :
    (BitVec.ofNat 16 (a + j * 0x800)).toNat = a + j * 0x800 :=
  Nat.mod_eq_of_lt (by omega)

/-- Two mirrors of one RAM byte name the same byte. -/
theorem sameRamByte_mirrors {a j k : Nat} (ha : a < 0x800) (hj : j < 4) (hk : k < 4) :
    SameRamByte (BitVec.ofNat 16 (a + j * 0x800)) (BitVec.ofNat 16 (a + k * 0x800)) := by
  rw [SameRamByte, toNat_mirror ha hj, toNat_mirror ha hk]
  omega

theorem loadb_ofNat_of_lt_0x800 (s : State) {a : Nat} (ha : a < 0x800) :
    loadb s (BitVec.ofNat 16 a) = s.ram.read a := by
  have hnat : (BitVec.ofNat 16 a).toNat = a := Nat.mod_eq_of_lt (by omega)
  rw [loadb_of_le_0x1FFF s (by omega), hnat, Nat.mod_eq_of_lt ha]

/-! ## The statements -/

/-- Settles O7, by the frame of a store, the read after it, and the discard outside RAM. -/
theorem storeWritesAtMostOneRamByte : Obligations.StoreWritesAtMostOneRamByte := fun s ea v =>
  ⟨storeb_eq_with_ram s ea v, fun addr => loadb_storeb_sameRamByte s ea addr v, storeb_of_0x2000_le s v⟩

/-- Settles O8: any two mirrors of a byte are one RAM byte, so the store's own rule gives the read back. -/
theorem ramIsMirroredFourTimes : Obligations.RamIsMirroredFourTimes := by
  intro s a j k v ha hj hk
  have hsame := sameRamByte_mirrors ha hj hk
  refine ⟨?_, hsame.loadb_eq s, fun _ => loadb_ofNat_of_lt_0x800 s ha⟩
  rw [loadb_storeb_sameRamByte, if_pos hsame]

/-- Settles O6, one rule per range of addresses. -/
theorem loadReadsItsRegion : Obligations.LoadReadsItsRegion := fun s _ =>
  ⟨loadb_of_le_0x1FFF s, loadb_of_stub s, loadb_of_0x8000_le s⟩

end Sys2Proof.Machine
end

section
/-! PROOFS. The shifts and rotates (42_logic_shift.md section 2): what one computation on a byte and the old
Carry does when it is run through the accumulator or through memory, once for all four operations. -/

namespace Sys2Proof.Machine

/-! ## The computation, in numbers -/

/-- On every byte and the old Carry `c`, `f` gives the byte `value` and the Carry `carry` say. -/
def Computes (f : Byte → Bool → Carried) (c : Bool) (value : Nat → Nat) (carry : Nat → Prop) : Prop :=
  ∀ v : Byte, (f v c).value.toNat = value v.toNat ∧ ((f v c).carry = true ↔ carry v.toNat)

/-- The form in which Laws/Flags.lean says it, with the Carry as a decision. -/
theorem Computes.of_decide {f : Byte → Bool → Carried} {c : Bool} {value : Nat → Nat} {carry : Nat → Prop}
    [DecidablePred carry]
    (h : ∀ v : Byte, (f v c).value.toNat = value v.toNat ∧ (f v c).carry = decide (carry v.toNat)) :
    Computes f c value carry := fun v => by
  obtain ⟨hvalue, hcarry⟩ := h v
  exact ⟨hvalue, by rw [hcarry, decide_eq_true_iff]⟩

theorem shiftLeft_computes (c : Bool) : Computes (fun v _ => shiftLeft v) c (2 * · % 256) (128 ≤ ·) :=
  .of_decide shiftLeft_spec

theorem shiftRight_computes (c : Bool) : Computes (fun v _ => shiftRight v) c (· / 2) (· % 2 = 1) :=
  .of_decide shiftRight_spec

theorem rotateLeft_computes (c : Bool) : Computes rotateLeft c (2 * · % 256 + c.toNat) (128 ≤ ·) :=
  .of_decide fun v => rotateLeft_spec v c

theorem rotateRight_computes (c : Bool) : Computes rotateRight c (· / 2 + 128 * c.toNat) (· % 2 = 1) :=
  .of_decide fun v => rotateRight_spec v c

/-! ## The computation run through its place -/

section
variable (s : State) (g : Flag)

@[simp] theorem flag_setA (v : Byte) : (s.setA v).flag g = s.flag g := rfl
@[simp] theorem flag_advance (n : Nat) : (s.advance n).flag g = s.flag g := rfl
@[simp] theorem flag_storeb (ea : Addr) (v : Byte) : (storeb s ea v).flag g = s.flag g :=
  flag_congr (storeb_p s ea v) g

/-- A write of one flag keeps the others. -/
theorem flagsKeptBut_setFlag (b : Bool) : FlagsKeptBut [g] s (s.setFlag g b) := fun f hf => by
  rw [flag_setFlag, if_neg (mt List.mem_singleton.mpr hf)]

end

section
variable {i : Instr} {opcode : Byte} {s : State} {ea : Addr} {r : Carried} {f : Byte → Bool → Carried}
  {value : Nat → Nat} {carry : Nat → Prop}

/-- Carry and A written from one result are a shift of A. -/
theorem shiftedA_of_result (hvalue : r.value.toNat = value s.a.toNat)
    (hcarry : r.carry = true ↔ carry s.a.toNat) :
    ShiftedA s value carry (((s.setFlag .c r.carry).setA r.value).advance 1) where
  frame := rfl
  value := hvalue
  carry := by rw [flag_advance, flag_setA, flag_setFlag, if_pos rfl, hcarry]
  flags := flagsKeptBut_setFlag s .c r.carry

/-- Carry and the byte at `ea` written from one result are a shift of that byte. -/
theorem shiftedAt_of_result (len : Nat) (hvalue : r.value.toNat = value (loadb s ea).toNat)
    (hcarry : r.carry = true ↔ carry (loadb s ea).toNat) :
    ShiftedAt s ea value carry len ((storeb (s.setFlag .c r.carry) ea r.value).advance len) where
  frame := by rw [storeb_eq_with_ram]; rfl
  bytes addr := by
    rw [loadb_advance, loadb_storeb_sameRamByte, loadb_setFlag, apply_ite BitVec.toNat, hvalue]
  discarded h := by rw [storeb_of_0x2000_le _ _ h]; rfl
  carry := by rw [flag_advance, flag_storeb, flag_setFlag, if_pos rfl, hcarry]
  flags g hg := by rw [flag_advance, flag_storeb, flagsKeptBut_setFlag s .c r.carry g hg]

/-- An instruction that runs a computation through the accumulator shifts A. -/
theorem runsAs_shiftedA (hop : (encode i).head? = some opcode) (hexec : exec i s = modifyThrough .acc f s)
    (hf : Computes f (s.flag .c) value carry) : RunsAs opcode i s (ShiftedA s value carry) := by
  obtain ⟨hvalue, hcarry⟩ := hf s.a
  exact ⟨hop, _, hexec.trans (modifyThrough_acc f s), shiftedA_of_result hvalue hcarry⟩

/-- An instruction that runs a computation through a memory operand shifts the byte at its address. -/
theorem runsAs_shiftedAt (o : Operand) (hop : (encode i).head? = some opcode)
    (hexec : exec i s = modifyThrough o f s) (hea : resolve o s = .mem ea)
    (hf : Computes f (s.flag .c) value carry) : RunsAs opcode i s (ShiftedAt s ea value carry o.length) := by
  obtain ⟨hvalue, hcarry⟩ := hf (loadb s ea)
  exact ⟨hop, _, hexec.trans (modifyThrough_mem hea f), shiftedAt_of_result o.length hvalue hcarry⟩

end

/-! ## Nine rotates: the byte and the Carry are one word of nine bits -/

/-- The byte with the Carry above it. -/
def Carried.word (r : Carried) : BitVec 9 := BitVec.cons r.carry r.value

theorem Carried.word_injective : Function.Injective Carried.word := by
  rintro ⟨v, c⟩ ⟨w, d⟩ h
  have hc : c = d := by simpa [Carried.word] using congrArg BitVec.msb h
  have hv : v = w := by simpa [Carried.word] using congrArg (BitVec.setWidth 8) h
  rw [hc, hv]

/-- ROL on a byte and a Carry. -/
def Carried.rol (r : Carried) : Carried := rotateLeft r.value r.carry

/-- ROL rotates the nine bits by one. -/
theorem Carried.word_rol (r : Carried) : r.rol.word = r.word.rotateLeft 1 := by
  obtain ⟨v, c⟩ := r
  revert v c
  decide

/-- Nine rotations of nine bits by one are the identity. -/
theorem rotateLeft_one_iterate_nine (w : BitVec 9) : (BitVec.rotateLeft · 1)^[9] w = w := by
  apply BitVec.eq_of_getLsbD_eq
  intro i hi
  interval_cases i <;> simp

theorem Carried.rol_iterate_nine (r : Carried) : Carried.rol^[9] r = r := by
  have hsemi : Function.Semiconj Carried.word Carried.rol (BitVec.rotateLeft · 1) := Carried.word_rol
  apply Carried.word_injective
  rw [(hsemi.iterate_right 9).eq, rotateLeft_one_iterate_nine]

/-! ## The statements -/

/-- Settles O35: each form runs `shiftLeft` through its place. -/
theorem aslShiftsLeft : Obligations.AslShiftsLeft := fun s nn addr =>
  have hf := shiftLeft_computes (s.flag .c)
  ⟨runsAs_shiftedA rfl rfl hf,
    runsAs_shiftedAt (.zp nn) rfl rfl rfl hf, runsAs_shiftedAt (.zpx nn) rfl rfl rfl hf,
    runsAs_shiftedAt (.abs addr) rfl rfl rfl hf, runsAs_shiftedAt (.absx addr) rfl rfl rfl hf⟩

/-- Settles O36: each form runs `shiftRight` through its place. -/
theorem lsrShiftsRight : Obligations.LsrShiftsRight := fun s nn addr =>
  have hf := shiftRight_computes (s.flag .c)
  ⟨runsAs_shiftedA rfl rfl hf,
    runsAs_shiftedAt (.zp nn) rfl rfl rfl hf, runsAs_shiftedAt (.zpx nn) rfl rfl rfl hf,
    runsAs_shiftedAt (.abs addr) rfl rfl rfl hf, runsAs_shiftedAt (.absx addr) rfl rfl rfl hf⟩

/-- Settles O37: each form runs `rotateLeft` through its place, and nine rotates of nine bits are none. -/
theorem rolRotatesLeftThroughCarry : Obligations.RolRotatesLeftThroughCarry := fun s nn addr =>
  have hf := rotateLeft_computes (s.flag .c)
  ⟨runsAs_shiftedA rfl rfl hf,
    runsAs_shiftedAt (.zp nn) rfl rfl rfl hf, runsAs_shiftedAt (.zpx nn) rfl rfl rfl hf,
    runsAs_shiftedAt (.abs addr) rfl rfl rfl hf, runsAs_shiftedAt (.absx addr) rfl rfl rfl hf,
    fun v c => Carried.rol_iterate_nine ⟨v, c⟩⟩

/-- Settles O38: each form runs `rotateRight` through its place. -/
theorem rorRotatesRightThroughCarry : Obligations.RorRotatesRightThroughCarry := fun s nn addr =>
  have hf := rotateRight_computes (s.flag .c)
  ⟨runsAs_shiftedA rfl rfl hf,
    runsAs_shiftedAt (.zp nn) rfl rfl rfl hf, runsAs_shiftedAt (.zpx nn) rfl rfl rfl hf,
    runsAs_shiftedAt (.abs addr) rfl rfl rfl hf, runsAs_shiftedAt (.absx addr) rfl rfl rfl hf⟩

end Sys2Proof.Machine
end

section
/-! PROOFS. CMP, CPX and CPY (43_compare.md): what a compare writes to the flags, in numbers, and what a
load form that compares a register with the byte of its operand does, once for all three registers. -/

namespace Sys2Proof.Machine

/-! ## The two flag writes of a compare -/

section
variable (reg v : Byte) (s : State)

/-- A flag after a compare, in numbers. -/
theorem flag_writeCompare (f : Flag) :
    (writeCompare reg v s).flag f =
      if f = .z then decide (reg.toNat = v.toNat)
      else if f = .c then decide (v.toNat ≤ reg.toNat) else s.flag f := by
  simp only [writeCompare, compareBytes_eq, flag_setFlag]

theorem flag_c_writeCompare : (writeCompare reg v s).flag .c = true ↔ v.toNat ≤ reg.toNat := by
  rw [flag_writeCompare, if_neg (by decide), if_pos rfl, decide_eq_true_iff]

theorem flag_z_writeCompare : (writeCompare reg v s).flag .z = true ↔ reg = v := by
  rw [flag_writeCompare, if_pos rfl, decide_eq_true_iff, BitVec.toNat_inj]

theorem flagsKeptBut_writeCompare : FlagsKeptBut [.c, .z] s (writeCompare reg v s) := fun f hf => by
  obtain ⟨hc, hz⟩ : f ≠ .c ∧ f ≠ .z := by simpa using hf
  rw [flag_writeCompare, if_neg hz, if_neg hc]

/-- The two flag writes and the move of PC are a compare. -/
theorem comparedTo_writeCompare (len : Nat) : ComparedTo reg s v len ((writeCompare reg v s).advance len) where
  frame := rfl
  carry := flag_c_writeCompare reg v s
  zero := flag_z_writeCompare reg v s
  flags := flagsKeptBut_writeCompare reg v s

end

/-- An instruction that compares the register `reg` with the byte its operand names. -/
theorem runsAs_comparedTo {i : Instr} {opcode : Byte} {s : State} (reg : State → Byte) (o : Operand)
    (hop : (encode i).head? = some opcode)
    (hexec : exec i s = loadThen o (fun v t => writeCompare (reg t) v t) s) :
    RunsAs opcode i s (ComparedTo (reg s) s (loadAt (resolve o s) s) o.length) :=
  ⟨hop, _, hexec.trans (loadThen_eq o _ s), comparedTo_writeCompare (reg s) _ s o.length⟩

/-! ## The statements -/

/-- Settles O39: each form compares A with the byte of its operand. -/
theorem cmpComparesAWithByte : Obligations.CmpComparesAWithByte := fun _ nn addr =>
  ⟨runsAs_comparedTo State.a (.imm nn) rfl rfl, runsAs_comparedTo State.a (.zp nn) rfl rfl,
    runsAs_comparedTo State.a (.zpx nn) rfl rfl, runsAs_comparedTo State.a (.abs addr) rfl rfl,
    runsAs_comparedTo State.a (.absx addr) rfl rfl, runsAs_comparedTo State.a (.absy addr) rfl rfl⟩

/-- Settles O40: each form compares X with the byte of its operand. -/
theorem cpxComparesXWithByte : Obligations.CpxComparesXWithByte := fun _ nn addr =>
  ⟨runsAs_comparedTo State.x (.imm nn) rfl rfl, runsAs_comparedTo State.x (.zp nn) rfl rfl,
    runsAs_comparedTo State.x (.abs addr) rfl rfl⟩

/-- Settles O41: each form compares Y with the byte of its operand. -/
theorem cpyComparesYWithByte : Obligations.CpyComparesYWithByte := fun _ nn addr =>
  ⟨runsAs_comparedTo State.y (.imm nn) rfl rfl, runsAs_comparedTo State.y (.zp nn) rfl rfl,
    runsAs_comparedTo State.y (.abs addr) rfl rfl⟩

end Sys2Proof.Machine
end

section
/-! PROOFS. STA, STX and STY (44_load_store.md section 2): what a store through a memory operand does, once
for all three registers; the store itself is ruled by the memory map (R32). -/

namespace Sys2Proof.Machine

/-- A store and the move of PC are all that a store instruction does. -/
theorem stored_storeb (s : State) (ea : Addr) (v : Byte) (len : Nat) :
    Stored s ea v len ((storeb s ea v).advance len) where
  frame := by rw [storeb_eq_with_ram]; rfl
  bytes addr := by rw [loadb_advance, loadb_storeb_sameRamByte]
  discarded h := by rw [storeb_of_0x2000_le s v h]; rfl

/-- An instruction that stores `v` through a memory operand stores it at the operand's address. -/
theorem runsAs_stored {i : Instr} {opcode v : Byte} {s : State} {ea : Addr} (o : Operand)
    (hop : (encode i).head? = some opcode) (hexec : exec i s = storeThrough o v s)
    (hea : resolve o s = .mem ea) : RunsAs opcode i s (Stored s ea v o.length) :=
  ⟨hop, _, hexec.trans (storeThrough_mem hea v), stored_storeb s ea v o.length⟩

/-! ## The statements -/

/-- Settles O45: each form stores A through its operand. -/
theorem staStoresA : Obligations.StaStoresA := fun _ nn addr =>
  ⟨runsAs_stored (.zp nn) rfl rfl rfl, runsAs_stored (.zpx nn) rfl rfl rfl,
    runsAs_stored (.abs addr) rfl rfl rfl, runsAs_stored (.absx addr) rfl rfl rfl,
    runsAs_stored (.absy addr) rfl rfl rfl⟩

/-- Settles O46: each form stores X through its operand. -/
theorem stxStoresX : Obligations.StxStoresX := fun _ nn addr =>
  ⟨runsAs_stored (.zp nn) rfl rfl rfl, runsAs_stored (.zpy nn) rfl rfl rfl,
    runsAs_stored (.abs addr) rfl rfl rfl⟩

/-- Settles O47: each form stores Y through its operand. -/
theorem styStoresY : Obligations.StyStoresY := fun _ nn addr =>
  ⟨runsAs_stored (.zp nn) rfl rfl rfl, runsAs_stored (.zpx nn) rfl rfl rfl,
    runsAs_stored (.abs addr) rfl rfl rfl⟩

end Sys2Proof.Machine
end

section
/-! PROOFS. NOP and JMP (45_control.md R149, R150): what each answers, and the bytes of a word operand in
numbers. -/

namespace Sys2Proof.Machine

/-! ## What the two instructions answer -/

/-- NOP only moves PC past its opcode (R149). -/
theorem exec_nop (s : State) : exec .nop s = .next { s with pc := past s 1 } := rfl

/-- JMP only puts its target into PC (R150). -/
theorem exec_jmp (target : Addr) (s : State) : exec (.jmp target) s = .next { s with pc := target } := rfl

/-! ## The bytes of a word operand, in numbers -/

theorem loByte_eq_ofNat (w : Addr) : loByte w = BitVec.ofNat 8 w.toNat :=
  BitVec.eq_of_toNat_eq (by rw [loByte_toNat, BitVec.toNat_ofNat])

theorem hiByte_eq_ofNat (w : Addr) : hiByte w = BitVec.ofNat 8 (w.toNat / 256) := by
  rw [← hiByte_toNat, BitVec.ofNat_toNat, BitVec.setWidth_eq]

/-- An instruction with a word operand is its opcode, then the low byte, then the high byte (R60, F3). -/
theorem encodeWord_eq_ofNat (op : Byte) (w : Addr) :
    encodeWord op w = [op, BitVec.ofNat 8 w.toNat, BitVec.ofNat 8 (w.toNat / 256)] := by
  rw [encodeWord, loByte_eq_ofNat, hiByte_eq_ofNat]

/-! ## The statements -/

/-- Settles O48: PC, past the opcode, is the one field NOP writes. -/
theorem nopOnlyAdvancesPc : Obligations.NopOnlyAdvancesPc := fun s => ⟨rfl, _, exec_nop s, rfl⟩

/-- Settles O51: PC is the one field JMP writes; its encoding is that of a word operand, and the opcode
table has no row for 0x6C. -/
theorem jmpReplacesPc : Obligations.JmpReplacesPc := fun s target =>
  ⟨⟨rfl, _, exec_jmp target s, rfl⟩, encodeWord_eq_ofNat 0x4C target, by decide⟩

end Sys2Proof.Machine
end

section
/-! PROOFS. The encoding (30_encoding.md): the two round trips, the length, and the illegal bytes. The
opcodes of `encode` and the rows of the decoder's table are compared in both directions: each instruction
with the entry of its opcode, and each row with the encoding of what it makes. -/

namespace Sys2Proof

/-! ## From an instruction to its entry -/

/-- The bytes of the instruction are an opcode and operand bytes from which the opcode's entry makes the
instruction again. -/
inductive HasEntry : Instr → Prop
  | bare {op : Byte} {i : Instr} (henc : encode i = [op]) (hlook : lookup op = some (.bare i)) : HasEntry i
  | byte {op : Byte} {make : Byte → Instr} (nn : Byte) (henc : encode (make nn) = encodeByte op nn)
      (hlook : lookup op = some (.byte make)) : HasEntry (make nn)
  | word {op : Byte} {make : Addr → Instr} (addr : Addr) (henc : encode (make addr) = encodeWord op addr)
      (hlook : lookup op = some (.word make)) : HasEntry (make addr)

theorem hasEntry (i : Instr) : HasEntry i := by
  cases i with
  | aslAcc | lsrAcc | rolAcc | rorAcc | nop | inx | iny | dex | dey => exact .bare rfl rfl
  | adcImm nn | adcZp nn | adcZpx nn | sbcImm nn | sbcZp nn | sbcZpx nn
  | andImm nn | andZp nn | andZpx nn | oraImm nn | oraZp nn | oraZpx nn | eorImm nn | eorZp nn | eorZpx nn
  | aslZp nn | aslZpx nn | lsrZp nn | lsrZpx nn | rolZp nn | rolZpx nn | rorZp nn | rorZpx nn
  | cmpImm nn | cmpZp nn | cmpZpx nn | cpxImm nn | cpxZp nn | cpyImm nn | cpyZp nn
  | ldaImm nn | ldaZp nn | ldaZpx nn | ldxImm nn | ldxZp nn | ldxZpy nn | ldyImm nn | ldyZp nn | ldyZpx nn
  | staZp nn | staZpx nn | stxZp nn | stxZpy nn | styZp nn | styZpx nn
  | bpl nn | bmi nn | bvc nn | bvs nn | bcc nn | bcs nn | bne nn | beq nn => exact .byte nn rfl rfl
  | adcAbs addr | adcAbsx addr | adcAbsy addr | sbcAbs addr | sbcAbsx addr | sbcAbsy addr
  | andAbs addr | andAbsx addr | andAbsy addr | oraAbs addr | oraAbsx addr | oraAbsy addr
  | eorAbs addr | eorAbsx addr | eorAbsy addr | aslAbs addr | aslAbsx addr | lsrAbs addr | lsrAbsx addr
  | rolAbs addr | rolAbsx addr | rorAbs addr | rorAbsx addr | cmpAbs addr | cmpAbsx addr | cmpAbsy addr
  | cpxAbs addr | cpyAbs addr | ldaAbs addr | ldaAbsx addr | ldaAbsy addr | ldxAbs addr | ldxAbsy addr
  | ldyAbs addr | ldyAbsx addr | staAbs addr | staAbsx addr | staAbsy addr | stxAbs addr | styAbs addr
  | jmp addr => exact .word addr rfl rfl

/-- The decoder reads an instruction back from its opcode's entry. -/
theorem HasEntry.decode_encode {i : Instr} (h : HasEntry i) (rest : List Byte) :
    decode (encode i ++ rest) = .ok (i, rest) := by
  cases h with
  | bare henc hlook => rw [henc, List.singleton_append, decode, hlook]
  | byte nn henc hlook => simp only [henc, encodeByte, List.cons_append, List.nil_append, decode, hlook]
  | word addr henc hlook =>
    simp only [henc, encodeWord, List.cons_append, List.nil_append, decode, hlook, Machine.joinBytes_lo_hi]

/-! ## From a row to the encoding -/

/-- Whatever operand the row is given, the instruction it makes is encoded as the row's opcode and that
operand. -/
def Row.Agrees (r : Row) : Prop :=
  ∀ (nn : Byte) (addr : Addr),
    match r.entry with
    | .bare i => encode i = [r.opcode]
    | .byte make => encode (make nn) = encodeByte r.opcode nn
    | .word make => encode (make addr) = encodeWord r.opcode addr

theorem agrees_of_mem_opcodeTable : ∀ r ∈ opcodeTable, r.Agrees := by
  rw [← List.forall_iff_forall_mem]
  repeat' apply And.intro
  all_goals exact fun _ _ => rfl

/-- `Row.Agrees` for the entry of an opcode. -/
theorem agrees_of_lookup {op : Byte} {e : Entry} (h : lookup op = some e) : Row.Agrees ⟨op, e⟩ := by
  obtain ⟨⟨_, _⟩, hr, rfl, rfl⟩ := lookup_mem h
  exact agrees_of_mem_opcodeTable _ hr

/-! ## Lengths -/

theorem length_encode (i : Instr) : (encode i).length = i.length := by cases i <;> rfl

/-- How many operand bytes a decoding takes is its entry's to say. -/
theorem decode_ok_entry {op : Byte} {bs rest : List Byte} {i : Instr}
    (h : decode (op :: bs) = .ok (i, rest)) :
    ∃ e, lookup op = some e ∧ bs.length = Laws.Shape.entryWidth e + rest.length := by
  obtain ⟨hl, rfl⟩ | ⟨make, nn, hl, rfl, rfl⟩ | ⟨make, ll, hh, hl, rfl, rfl⟩ := decode_ok_cases h
  · exact ⟨_, hl, (Nat.zero_add _).symm⟩
  · exact ⟨_, hl, Nat.add_comm _ 1⟩
  · exact ⟨_, hl, Nat.add_comm _ 2⟩

/-! ## The opcodes and the illegal bytes, as sets of bytes -/

/-- The number whose bits are the bytes of a list. -/
def byteSet (bytes : List Byte) : Nat := bytes.foldr (fun b set => 2 ^ b.toNat ||| set) 0

theorem testBit_byteSet (op : Byte) (bytes : List Byte) :
    (byteSet bytes).testBit op.toNat = true ↔ op ∈ bytes := by
  induction bytes with
  | nil => simp [byteSet]
  | cons b bytes ih =>
    rw [List.mem_cons, ← ih, byteSet, List.foldr_cons, Nat.testBit_or, Nat.testBit_two_pow, Bool.or_eq_true,
      decide_eq_true_iff, BitVec.toNat_inj, eq_comm]
    rfl

theorem lookup_isNone_iff (op : Byte) : (lookup op).isNone = true ↔ op ∉ opcodeTable.map Row.opcode := by
  simp [lookup]

set_option maxRecDepth 1000 in -- `illegalBytes` is a list of 153 bytes
/-- The opcodes and the illegal bytes are complements among the 256 bytes. -/
theorem byteSet_illegalBytes :
    byteSet Machine.illegalBytes = byteSet (opcodeTable.map Row.opcode) ^^^ (2 ^ 256 - 1) := by decide

/-! ## The statements -/

/-- Settles O1: the entry of each instruction's opcode makes it again. -/
theorem decodeOfEncodeGivesTheInstruction : Obligations.DecodeOfEncodeGivesTheInstruction := fun i =>
  (hasEntry i).decode_encode

/-- Settles O2: a decoding came from a row, and each row agrees with the encoder. -/
theorem encodeOfDecodeGivesTheBytes : Obligations.EncodeOfDecodeGivesTheBytes := by
  intro bytes i rest h
  cases bytes with
  | nil => cases h
  | cons op bs =>
    obtain ⟨hl, rfl⟩ | ⟨make, nn, hl, rfl, rfl⟩ | ⟨make, ll, hh, hl, rfl, rfl⟩ := decode_ok_cases h
    · have henc : encode i = [op] := agrees_of_lookup hl 0 0
      rw [henc, List.singleton_append]
    · have henc : encode (make nn) = encodeByte op nn := agrees_of_lookup hl nn 0
      rw [henc]; rfl
    · have henc : encode (make (joinBytes ll hh)) = encodeWord op (joinBytes ll hh) :=
        agrees_of_lookup hl 0 (joinBytes ll hh)
      rw [henc, encodeWord, Machine.loByte_joinBytes, Machine.hiByte_joinBytes]; rfl

/-- Settles O5: the entry of the opcode byte says how many bytes follow it, and the bytes taken are those of
the encoding. -/
theorem lengthDependsOnTheOpcodeAlone : Obligations.LengthDependsOnTheOpcodeAlone := by
  intro op bs bs' i i' rest rest' h h'
  obtain ⟨e, hl, hbs⟩ := decode_ok_entry h
  obtain ⟨e', hl', hbs'⟩ := decode_ok_entry h'
  obtain rfl : e = e' := Option.some.inj (hl.symm.trans hl')
  have hlen : ∀ {bs i rest}, decode (op :: bs) = .ok (i, rest) →
      (op :: bs).length = i.length + rest.length := fun h => by
    rw [← encodeOfDecodeGivesTheBytes _ _ _ h, List.length_append, length_encode]
  have hi := hlen h
  have hi' := hlen h'
  rw [List.length_cons] at hi hi'
  exact ⟨by omega, rfl, hlen h, hlen h'⟩

/-- Settles O3: as sets of bytes, the opcodes and the illegal bytes are complements. -/
theorem illegalBytesAreTheListedOnes : Obligations.IllegalBytesAreTheListedOnes := by
  intro op
  rw [lookup_isNone_iff, ← testBit_byteSet, ← testBit_byteSet, byteSet_illegalBytes, Nat.testBit_xor,
    Nat.testBit_two_pow_sub_one, decide_eq_true op.isLt, Bool.xor_true, Bool.not_eq_true', Bool.not_eq_true]

/-- Settles O4: each word is the encoding of the instruction it stands for. -/
theorem wordsOfTheSpecDecode : Obligations.WordsOfTheSpecDecode :=
  have hdec := fun i => decodeOfEncodeGivesTheInstruction i []
  ⟨hdec .inx, hdec .aslAcc, hdec (.ldaImm 0x10), hdec (.beq 0x08), hdec (.staZp 0x10), hdec (.ldaZpx 0x10),
    hdec (.ldxZpy 0x10), hdec (.jmp 0x8004), hdec (.ldaAbsx 0x0200), hdec (.staAbsy 0x0A00),
    hdec (.cmpImm 0x06), hdec (.sbcImm 0x03), hdec (.andImm 0x3C)⟩

end Sys2Proof
end

section
/-! PROOFS. What an instruction can do at all: it writes registers, and at most one byte of memory, and what it
writes is read off the registers and the bus alone. This is said once for all instructions (`hasEffect`); the
frames of 10_state.md and 20_memory.md, the invariant and the independence of what is not seen follow. -/

namespace Sys2Proof.Machine

/-! ## Registers over a machine -/

/-- The machine with these registers; HALT, RAM and the cartridge stay. -/
def Registers.over (r : Registers) (m : State) : State :=
  { m with a := r.a, x := r.x, y := r.y, sp := r.sp, p := r.p, pc := r.pc }

theorem loadb_over (r : Registers) (m : State) (addr : Addr) : loadb (r.over m) addr = loadb m addr := rfl

theorem storeb_over (r : Registers) (m : State) (ea : Addr) (v : Byte) :
    storeb (r.over m) ea v = r.over (storeb m ea v) := by
  rw [storeb_eq, storeb_eq]
  split <;> rfl

/-- The update changes registers only, and how depends on registers only. -/
def RegistersOnly (g : State → State) : Prop :=
  ∀ (r : Registers) (m m' : State), g (r.over m) = (readRegisters (g (r.over m'))).over m

/-! ## Machines seen alike -/

theorem SameView.refl (s : State) : SameView s s := ⟨rfl, rfl, rfl, rfl, rfl, rfl, rfl, fun _ => rfl⟩

section
variable {s t : State}

theorem SameView.over_eq (h : SameView s t) : (readRegisters s).over t = t := by
  obtain ⟨ha, hx, hy, hsp, hp, hpc, -, -⟩ := h
  simp only [Registers.over, readRegisters, ha, hx, hy, hsp, hp, hpc]

/-- An update of registers only makes the same registers of machines seen alike. -/
theorem RegistersOnly.eq_over {g : State → State} (hg : RegistersOnly g) (h : SameView s t) :
    g t = (readRegisters (g s)).over t := by
  have := hg (readRegisters s) t s
  rwa [h.over_eq] at this

theorem SameView.resolve_eq (h : SameView s t) (o : Operand) : resolve o s = resolve o t := by
  cases o <;> simp only [resolve, h.x, h.y]

theorem SameView.loadAt_eq (h : SameView s t) (place : Place) : loadAt place s = loadAt place t := by
  cases place with
  | acc => exact h.a
  | value nn => rfl
  | mem ea => exact h.bus ea

end

/-! ## The effect of an instruction -/

/-- A store of a byte at an address, or none. -/
def storeIfAny (s : State) : Option (Addr × Byte) → State
  | none => s
  | some (ea, v) => storeb s ea v

/-- What an instruction does to a machine: the registers after it, and what it stores. -/
structure Effect where
  regs : Registers
  store : Option (Addr × Byte)

/-- The machine after the effect. -/
def Effect.apply (e : Effect) (s : State) : State := e.regs.over (storeIfAny s e.store)

section
variable (e : Effect) (s : State)

@[simp] theorem Effect.apply_halt : (e.apply s).halt = s.halt := by
  obtain ⟨_, _ | ⟨ea, v⟩⟩ := e
  · rfl
  · exact storeb_halt s ea v

@[simp] theorem Effect.apply_cart : (e.apply s).cart = s.cart := by
  obtain ⟨_, _ | ⟨ea, v⟩⟩ := e
  · rfl
  · exact storeb_cart s ea v

end

/-- One effect keeps machines alike that are seen alike. -/
theorem SameView.apply {s t : State} (h : SameView s t) (e : Effect) : SameView (e.apply s) (e.apply t) := by
  refine ⟨rfl, rfl, rfl, rfl, rfl, rfl, by simp [h.halt], fun addr => ?_⟩
  obtain ⟨_, _ | ⟨ea, v⟩⟩ := e
  · exact h.bus addr
  · simp only [Effect.apply, storeIfAny, loadb_over, loadb_storeb, h.bus]

/-- The registers of `u` are those of `s` but for what the instruction is a writer of (10_state.md R11 to R18). -/
structure RegisterFrame (i : Instr) (s u : State) : Prop where
  a : writesA i = false → u.a = s.a
  x : writesX i = false → u.x = s.x
  y : writesY i = false → u.y = s.y
  sp : u.sp = s.sp
  flags : ∀ f : Flag, i.mnemonic ∉ f.writers → u.flag f = s.flag f
  pc : i.mode ≠ .rel → i.mnemonic ≠ .jmp → u.pc = past s i.length

/-- The instruction answers a next state from every machine, the same effect on machines seen alike, within
its frame. -/
def HasEffect (i : Instr) : Prop :=
  ∀ s t : State, SameView s t → ∃ e : Effect,
    exec i s = .next (e.apply s) ∧ exec i t = .next (e.apply t) ∧
      RegisterFrame i s (e.apply s) ∧ e.store.map Prod.fst = storeEa i s

/-! ## The frames of the register writes -/

section
variable {i : Instr} {s u : State}

theorem registerFrame_advance (s : State) {n : Nat} (hlen : i.length = n) : RegisterFrame i s (s.advance n) :=
  ⟨fun _ => rfl, fun _ => rfl, fun _ => rfl, rfl, fun _ _ => rfl, fun _ _ => by rw [hlen]; rfl⟩

theorem registerFrame_setPc (s : State) (hpc : i.mode = .rel ∨ i.mnemonic = .jmp) (w : Addr) :
    RegisterFrame i s (s.setPc w) :=
  ⟨fun _ => rfl, fun _ => rfl, fun _ => rfl, rfl, fun _ _ => rfl, fun hrel hjmp => (hpc.elim hrel hjmp).elim⟩

theorem RegisterFrame.setA (h : RegisterFrame i s u) (hw : writesA i = true) (v : Byte) :
    RegisterFrame i s (u.setA v) :=
  { h with a := fun hn => absurd (hw.symm.trans hn) Bool.noConfusion }

theorem RegisterFrame.setX (h : RegisterFrame i s u) (hw : writesX i = true) (v : Byte) :
    RegisterFrame i s (u.setX v) :=
  { h with x := fun hn => absurd (hw.symm.trans hn) Bool.noConfusion }

theorem RegisterFrame.setY (h : RegisterFrame i s u) (hw : writesY i = true) (v : Byte) :
    RegisterFrame i s (u.setY v) :=
  { h with y := fun hn => absurd (hw.symm.trans hn) Bool.noConfusion }

theorem RegisterFrame.setFlag (h : RegisterFrame i s u) {f : Flag}
    (hw : f.writers.contains i.mnemonic = true) (b : Bool) : RegisterFrame i s (u.setFlag f b) where
  a := h.a
  x := h.x
  y := h.y
  sp := h.sp
  flags g hg := by
    have hne : g ≠ f := by
      rintro rfl
      exact hg (List.contains_iff_mem.mp hw)
    rw [flag_setFlag, if_neg hne, h.flags g hg]
  pc := h.pc

end

/-! ## The shapes of instructions have an effect -/

section
variable {i : Instr}

/-- An instruction that loads a byte, or none, and updates registers. -/
theorem hasEffect_of_registersOnly (operand : State → Byte) (g : Byte → State → State)
    (hview : ∀ {s t}, SameView s t → operand s = operand t) (hg : ∀ v, RegistersOnly (g v))
    (hexec : ∀ s, exec i s = .next (g (operand s) s)) (hstore : ∀ s, storeEa i s = none)
    (hframe : ∀ v s, RegisterFrame i s (g v s)) : HasEffect i := by
  intro s t h
  have hs := (hg (operand s)).eq_over (SameView.refl s)
  have ht := (hg (operand s)).eq_over h
  refine ⟨⟨readRegisters (g (operand s) s), none⟩, ?_, ?_, ?_, (hstore s).symm⟩
  · rw [hexec, hs]; rfl
  · rw [hexec, ← hview h, ht]; rfl
  · exact hs ▸ hframe (operand s) s

/-- The load shape. -/
theorem hasEffect_of_load {o : Operand} {g : Byte → State → State} (hexec : ∀ s, exec i s = loadThen o g s)
    (hg : ∀ v, RegistersOnly (g v)) (hstore : ∀ s, storeEa i s = none)
    (hframe : ∀ v s, RegisterFrame i s ((g v s).advance o.length)) : HasEffect i := by
  refine hasEffect_of_registersOnly (fun s => loadAt (resolve o s) s) (fun v s => (g v s).advance o.length)
    (fun {s t} h => ?_) (fun v r m m' => ?_) hexec hstore hframe
  · rw [h.resolve_eq, h.loadAt_eq]
  · exact congrArg (State.advance · o.length) (hg v r m m')

/-- An instruction that updates registers and stores one byte, from the byte that was there. -/
theorem hasEffect_of_store {o : Operand} (g : Byte → State → State) (value : Byte → State → Byte)
    (hg : ∀ v, RegistersOnly (g v)) (hvalue : ∀ v r m m', value v (Registers.over r m) = value v (r.over m'))
    (hexec : ∀ s ea, resolve o s = .mem ea →
      exec i s = .next ((storeb (g (loadb s ea) s) ea (value (loadb s ea) s)).advance o.length))
    (hea : ∀ s, (storeEa i s).map Place.mem = some (resolve o s))
    (hframe : ∀ v s, RegisterFrame i s ((g v s).advance o.length)) : HasEffect i := by
  intro s t h
  obtain ⟨ea, hs, hres⟩ := Option.map_eq_some_iff.mp (hea s)
  have hrest : resolve o t = .mem ea := by rw [← h.resolve_eq, ← hres]
  have hgs := (hg (loadb s ea)).eq_over (SameView.refl s)
  have hgt := (hg (loadb s ea)).eq_over h
  have hvt : value (loadb s ea) t = value (loadb s ea) s := by
    have := hvalue (loadb s ea) (readRegisters s) t s
    rwa [h.over_eq] at this
  have hf := hframe (loadb s ea) s
  refine ⟨⟨readRegisters ((g (loadb s ea) s).advance o.length), some (ea, value (loadb s ea) s)⟩, ?_, ?_,
    ⟨hf.a, hf.x, hf.y, hf.sp, hf.flags, hf.pc⟩, hs.symm⟩
  · rw [hexec s ea hres.symm, hgs, storeb_over]; rfl
  · rw [hexec t ea hrest, ← h.bus, hvt, hgt, storeb_over]; rfl

/-- The store shape. -/
theorem hasEffect_of_storeThrough (reg : Registers → Byte) (o : Operand) (hlen : i.length = o.length)
    (hexec : ∀ s, exec i s = storeThrough o (reg (readRegisters s)) s)
    (hea : ∀ s, (storeEa i s).map Place.mem = some (resolve o s)) : HasEffect i :=
  hasEffect_of_store (fun _ s => s) (fun _ s => reg (readRegisters s)) (fun _ _ _ _ => rfl)
    (fun _ _ _ _ => rfl) (fun s _ h => (hexec s).trans (storeThrough_mem h _)) hea
    (fun _ s => registerFrame_advance s hlen)

/-- The modify shape on memory. -/
theorem hasEffect_of_modifyThrough (f : Byte → Bool → Carried) (o : Operand) (hlen : i.length = o.length)
    (hexec : ∀ s, exec i s = modifyThrough o f s)
    (hea : ∀ s, (storeEa i s).map Place.mem = some (resolve o s))
    (hc : Flag.c.writers.contains i.mnemonic = true) : HasEffect i :=
  hasEffect_of_store (fun v s => s.setFlag .c (f v (s.flag .c)).carry) (fun v s => (f v (s.flag .c)).value)
    (fun _ _ _ _ => rfl) (fun _ _ _ _ => rfl) (fun s _ h => (hexec s).trans (modifyThrough_mem h f)) hea
    (fun _ s => (registerFrame_advance s hlen).setFlag hc _)

/-- An instruction that updates registers from registers alone. -/
theorem hasEffect_of_update {g : State → State} (hexec : ∀ s, exec i s = .next (g s)) (hg : RegistersOnly g)
    (hstore : ∀ s, storeEa i s = none) (hframe : ∀ s, RegisterFrame i s (g s)) : HasEffect i :=
  hasEffect_of_registersOnly (fun _ => 0x00) (fun _ => g) (fun _ => rfl) (fun _ => hg) hexec hstore
    (fun _ => hframe)

/-- The modify shape on the accumulator. -/
theorem hasEffect_of_modifyThrough_acc (f : Byte → Bool → Carried) (hlen : i.length = 1)
    (hexec : ∀ s, exec i s = modifyThrough .acc f s) (hstore : ∀ s, storeEa i s = none)
    (ha : writesA i = true) (hc : Flag.c.writers.contains i.mnemonic = true) : HasEffect i :=
  hasEffect_of_update (fun s => (hexec s).trans (modifyThrough_acc f s)) (fun _ _ _ => rfl) hstore fun s =>
    ((registerFrame_advance s hlen).setFlag hc _).setA ha _

end

/-! ## The load families have an effect -/

section
variable {i : Instr} {o : Operand} (hlen : i.length = o.length) (hstore : ∀ s, storeEa i s = none)
include hlen hstore

/-- ADC and SBC: A and Carry from A, the byte and Carry. -/
theorem hasEffect_of_carry (op : Byte → Byte → Bool → Carried)
    (hexec : ∀ s, exec i s = loadThen o (fun v s =>
      (s.setFlag .c (op s.a v (s.flag .c)).carry).setA (op s.a v (s.flag .c)).value) s)
    (ha : writesA i = true) (hc : Flag.c.writers.contains i.mnemonic = true) : HasEffect i :=
  hasEffect_of_load hexec (fun _ _ _ _ => rfl) hstore fun _ s =>
    ((registerFrame_advance s hlen).setFlag hc _).setA ha _

/-- AND, ORA, EOR and LDA: A from A and the byte. -/
theorem hasEffect_of_setA (op : Byte → Byte → Byte)
    (hexec : ∀ s, exec i s = loadThen o (fun v s => s.setA (op s.a v)) s) (ha : writesA i = true) :
    HasEffect i :=
  hasEffect_of_load hexec (fun _ _ _ _ => rfl) hstore fun _ s => (registerFrame_advance s hlen).setA ha _

theorem hasEffect_of_setX (hexec : ∀ s, exec i s = loadThen o (fun v s => s.setX v) s)
    (hx : writesX i = true) : HasEffect i :=
  hasEffect_of_load hexec (fun _ _ _ _ => rfl) hstore fun _ s => (registerFrame_advance s hlen).setX hx _

theorem hasEffect_of_setY (hexec : ∀ s, exec i s = loadThen o (fun v s => s.setY v) s)
    (hy : writesY i = true) : HasEffect i :=
  hasEffect_of_load hexec (fun _ _ _ _ => rfl) hstore fun _ s => (registerFrame_advance s hlen).setY hy _

/-- CMP, CPX and CPY: Carry and Zero from a register and the byte. -/
theorem hasEffect_of_compare (reg : Registers → Byte)
    (hexec : ∀ s, exec i s = loadThen o (fun v s => writeCompare (reg (readRegisters s)) v s) s)
    (hc : Flag.c.writers.contains i.mnemonic = true) (hz : Flag.z.writers.contains i.mnemonic = true) :
    HasEffect i :=
  hasEffect_of_load hexec (fun _ _ _ _ => rfl) hstore fun _ s =>
    ((registerFrame_advance s hlen).setFlag hc _).setFlag hz _

end

/-- The common branch writes PC alone (45_control.md R140). -/
theorem branch_eq (f : Flag) (want : Bool) (offset : Byte) (s : State) : branch f want offset s =
    .next (s.setPc (if s.flag f = want then past s 2 + zext16 offset else past s 2)) := by
  unfold branch
  split <;> rfl

/-! ## Every instruction has an effect -/

theorem hasEffect (i : Instr) : HasEffect i := by
  cases i with
  | adcImm | adcZp | adcZpx | adcAbs | adcAbsx | adcAbsy =>
    exact hasEffect_of_carry rfl (fun _ => rfl) addWithCarry (fun _ => rfl) rfl rfl
  | sbcImm | sbcZp | sbcZpx | sbcAbs | sbcAbsx | sbcAbsy =>
    exact hasEffect_of_carry rfl (fun _ => rfl) subWithCarry (fun _ => rfl) rfl rfl
  | andImm | andZp | andZpx | andAbs | andAbsx | andAbsy =>
    exact hasEffect_of_setA rfl (fun _ => rfl) (· &&& ·) (fun _ => rfl) rfl
  | oraImm | oraZp | oraZpx | oraAbs | oraAbsx | oraAbsy =>
    exact hasEffect_of_setA rfl (fun _ => rfl) (· ||| ·) (fun _ => rfl) rfl
  | eorImm | eorZp | eorZpx | eorAbs | eorAbsx | eorAbsy =>
    exact hasEffect_of_setA rfl (fun _ => rfl) (· ^^^ ·) (fun _ => rfl) rfl
  | ldaImm | ldaZp | ldaZpx | ldaAbs | ldaAbsx | ldaAbsy =>
    exact hasEffect_of_setA rfl (fun _ => rfl) (fun _ v => v) (fun _ => rfl) rfl
  | ldxImm | ldxZp | ldxZpy | ldxAbs | ldxAbsy =>
    exact hasEffect_of_setX rfl (fun _ => rfl) (fun _ => rfl) rfl
  | ldyImm | ldyZp | ldyZpx | ldyAbs | ldyAbsx =>
    exact hasEffect_of_setY rfl (fun _ => rfl) (fun _ => rfl) rfl
  | cmpImm | cmpZp | cmpZpx | cmpAbs | cmpAbsx | cmpAbsy =>
    exact hasEffect_of_compare rfl (fun _ => rfl) Registers.a (fun _ => rfl) rfl rfl
  | cpxImm | cpxZp | cpxAbs => exact hasEffect_of_compare rfl (fun _ => rfl) Registers.x (fun _ => rfl) rfl rfl
  | cpyImm | cpyZp | cpyAbs => exact hasEffect_of_compare rfl (fun _ => rfl) Registers.y (fun _ => rfl) rfl rfl
  | staZp nn => exact hasEffect_of_storeThrough Registers.a (.zp nn) rfl (fun _ => rfl) fun _ => rfl
  | staZpx nn => exact hasEffect_of_storeThrough Registers.a (.zpx nn) rfl (fun _ => rfl) fun _ => rfl
  | staAbs addr => exact hasEffect_of_storeThrough Registers.a (.abs addr) rfl (fun _ => rfl) fun _ => rfl
  | staAbsx addr => exact hasEffect_of_storeThrough Registers.a (.absx addr) rfl (fun _ => rfl) fun _ => rfl
  | staAbsy addr => exact hasEffect_of_storeThrough Registers.a (.absy addr) rfl (fun _ => rfl) fun _ => rfl
  | stxZp nn => exact hasEffect_of_storeThrough Registers.x (.zp nn) rfl (fun _ => rfl) fun _ => rfl
  | stxZpy nn => exact hasEffect_of_storeThrough Registers.x (.zpy nn) rfl (fun _ => rfl) fun _ => rfl
  | stxAbs addr => exact hasEffect_of_storeThrough Registers.x (.abs addr) rfl (fun _ => rfl) fun _ => rfl
  | styZp nn => exact hasEffect_of_storeThrough Registers.y (.zp nn) rfl (fun _ => rfl) fun _ => rfl
  | styZpx nn => exact hasEffect_of_storeThrough Registers.y (.zpx nn) rfl (fun _ => rfl) fun _ => rfl
  | styAbs addr => exact hasEffect_of_storeThrough Registers.y (.abs addr) rfl (fun _ => rfl) fun _ => rfl
  | aslZp nn =>
    exact hasEffect_of_modifyThrough (fun v _ => shiftLeft v) (.zp nn) rfl (fun _ => rfl) (fun _ => rfl) rfl
  | aslZpx nn =>
    exact hasEffect_of_modifyThrough (fun v _ => shiftLeft v) (.zpx nn) rfl (fun _ => rfl) (fun _ => rfl) rfl
  | aslAbs addr =>
    exact hasEffect_of_modifyThrough (fun v _ => shiftLeft v) (.abs addr) rfl (fun _ => rfl) (fun _ => rfl) rfl
  | aslAbsx addr =>
    exact hasEffect_of_modifyThrough (fun v _ => shiftLeft v) (.absx addr) rfl (fun _ => rfl) (fun _ => rfl) rfl
  | lsrZp nn =>
    exact hasEffect_of_modifyThrough (fun v _ => shiftRight v) (.zp nn) rfl (fun _ => rfl) (fun _ => rfl) rfl
  | lsrZpx nn =>
    exact hasEffect_of_modifyThrough (fun v _ => shiftRight v) (.zpx nn) rfl (fun _ => rfl) (fun _ => rfl) rfl
  | lsrAbs addr =>
    exact hasEffect_of_modifyThrough (fun v _ => shiftRight v) (.abs addr) rfl (fun _ => rfl) (fun _ => rfl) rfl
  | lsrAbsx addr =>
    exact hasEffect_of_modifyThrough (fun v _ => shiftRight v) (.absx addr) rfl (fun _ => rfl) (fun _ => rfl) rfl
  | rolZp nn =>
    exact hasEffect_of_modifyThrough rotateLeft (.zp nn) rfl (fun _ => rfl) (fun _ => rfl) rfl
  | rolZpx nn =>
    exact hasEffect_of_modifyThrough rotateLeft (.zpx nn) rfl (fun _ => rfl) (fun _ => rfl) rfl
  | rolAbs addr =>
    exact hasEffect_of_modifyThrough rotateLeft (.abs addr) rfl (fun _ => rfl) (fun _ => rfl) rfl
  | rolAbsx addr =>
    exact hasEffect_of_modifyThrough rotateLeft (.absx addr) rfl (fun _ => rfl) (fun _ => rfl) rfl
  | rorZp nn =>
    exact hasEffect_of_modifyThrough rotateRight (.zp nn) rfl (fun _ => rfl) (fun _ => rfl) rfl
  | rorZpx nn =>
    exact hasEffect_of_modifyThrough rotateRight (.zpx nn) rfl (fun _ => rfl) (fun _ => rfl) rfl
  | rorAbs addr =>
    exact hasEffect_of_modifyThrough rotateRight (.abs addr) rfl (fun _ => rfl) (fun _ => rfl) rfl
  | rorAbsx addr =>
    exact hasEffect_of_modifyThrough rotateRight (.absx addr) rfl (fun _ => rfl) (fun _ => rfl) rfl
  | aslAcc => exact hasEffect_of_modifyThrough_acc (fun v _ => shiftLeft v) rfl (fun _ => rfl) (fun _ => rfl) rfl rfl
  | lsrAcc => exact hasEffect_of_modifyThrough_acc (fun v _ => shiftRight v) rfl (fun _ => rfl) (fun _ => rfl) rfl rfl
  | rolAcc => exact hasEffect_of_modifyThrough_acc rotateLeft rfl (fun _ => rfl) (fun _ => rfl) rfl rfl
  | rorAcc => exact hasEffect_of_modifyThrough_acc rotateRight rfl (fun _ => rfl) (fun _ => rfl) rfl rfl
  | nop => exact hasEffect_of_update (fun _ => rfl) (fun _ _ _ => rfl) (fun _ => rfl) fun s =>
      registerFrame_advance s rfl
  | inx | dex => exact hasEffect_of_update (fun _ => rfl) (fun _ _ _ => rfl) (fun _ => rfl) fun s =>
      (registerFrame_advance s rfl).setX rfl _
  | iny | dey => exact hasEffect_of_update (fun _ => rfl) (fun _ _ _ => rfl) (fun _ => rfl) fun s =>
      (registerFrame_advance s rfl).setY rfl _
  | bpl | bmi | bvc | bvs | bcc | bcs | bne | beq =>
    exact hasEffect_of_update (branch_eq _ _ _) (fun _ _ _ => rfl) (fun _ => rfl) fun s =>
      registerFrame_setPc s (.inl rfl) _
  | jmp => exact hasEffect_of_update (fun _ => rfl) (fun _ _ _ => rfl) (fun _ => rfl) fun s =>
      registerFrame_setPc s (.inr rfl) _

/-! ## What an instruction answers, by part -/

section
variable {i : Instr} {s t : State}

theorem exec_total (i : Instr) (s : State) : ∃ t, exec i s = .next t :=
  have ⟨_, hs, _, _, _⟩ := hasEffect i s s (SameView.refl s)
  ⟨_, hs⟩

/-- The effect behind an answer. -/
theorem effect_of_exec (h : exec i s = .next t) :
    ∃ e : Effect, t = e.apply s ∧ RegisterFrame i s (e.apply s) ∧ e.store.map Prod.fst = storeEa i s := by
  obtain ⟨e, hs, -, hframe, hstore⟩ := hasEffect i s s (SameView.refl s)
  exact ⟨e, Host.Outcome.next.inj (h.symm.trans hs), hframe, hstore⟩

theorem exec_registerFrame (h : exec i s = .next t) : RegisterFrame i s t := by
  obtain ⟨e, rfl, hframe, -⟩ := effect_of_exec h
  exact hframe

theorem exec_halt (h : exec i s = .next t) : t.halt = s.halt := by
  obtain ⟨e, rfl, -, -⟩ := effect_of_exec h
  exact e.apply_halt s

theorem exec_cart (h : exec i s = .next t) : t.cart = s.cart := by
  obtain ⟨e, rfl, -, -⟩ := effect_of_exec h
  exact e.apply_cart s

/-- RAM is whole, or one byte was stored at the form's address. -/
theorem exec_ram (h : exec i s = .next t) :
    storeEa i s = none ∧ t.ram = s.ram ∨ ∃ ea v, storeEa i s = some ea ∧ t.ram = (storeb s ea v).ram := by
  obtain ⟨⟨regs, _ | ⟨ea, v⟩⟩, rfl, -, hstore⟩ := effect_of_exec h
  · exact .inl ⟨hstore.symm, rfl⟩
  · exact .inr ⟨ea, v, hstore.symm, rfl⟩

end

theorem past_toNat (s : State) (n : Nat) : (past s n).toNat = (s.pc.toNat + n) % 65536 := by
  simp only [past, BitVec.toNat_add, BitVec.toNat_ofNat]
  omega

/-! ## The statements -/

/-- Settles O53: the frame of the registers, and what no effect touches. -/
theorem registersChangeOnlyByTheirWriters : Obligations.RegistersChangeOnlyByTheirWriters := fun _ _ _ h =>
  have hf := exec_registerFrame h
  ⟨hf.a, hf.x, hf.y, hf.sp, exec_halt h, exec_cart h⟩

/-- Settles O54: the frame of the flags. -/
theorem flagsChangeOnlyByTheirWriters : Obligations.FlagsChangeOnlyByTheirWriters := fun _ _ _ f h =>
  (exec_registerFrame h).flags f

/-- Settles O55: an effect stores at the form's address or not at all. -/
theorem memoryChangesOnlyAtTheStoreAddress : Obligations.MemoryChangesOnlyAtTheStoreAddress := by
  intro i s t h
  obtain ⟨hnone, hram⟩ | ⟨ea, v, hea, hram⟩ := exec_ram h
  · exact ⟨fun addr _ => loadb_congr hram (exec_cart h) addr, fun _ => hram⟩
  · refine ⟨fun addr hother => ?_, fun hnone => nomatch hnone.symm.trans hea⟩
    have hcart : t.cart = (storeb s ea v).cart := by rw [exec_cart h, storeb_cart]
    rw [loadb_congr hram hcart, loadb_storeb_sameRamByte, if_neg (hother ea hea)]

/-- Settles O56: the frame of PC, in numbers. -/
theorem pcPassesTheInstruction : Obligations.PcPassesTheInstruction := by
  intro i s t h hrel hjmp
  rw [(exec_registerFrame h).pc hrel hjmp, past_toNat, Instr.length, Nat.add_assoc]

/-- Settles O29: the fetch is a load, and the store is seen by it. -/
theorem storeIsSeenByTheNextFetch : Obligations.StoreIsSeenByTheNextFetch := by
  intro s t addr hsame
  have seen : ∀ {opcode i v}, RunsAs opcode i s (Stored s addr v 3) → exec i s = .next t →
      (fetchByte t).1 = v := by
    rintro opcode i v ⟨-, u, hu, hstored⟩ h
    obtain rfl : u = t := Host.Outcome.next.inj (hu.symm.trans h)
    exact (hstored.bytes u.pc).trans (if_pos hsame)
  obtain ⟨-, -, hsta, -, -⟩ := staStoresA s 0 addr
  obtain ⟨-, -, hstx⟩ := stxStoresX s 0 addr
  obtain ⟨-, -, hsty⟩ := styStoresY s 0 addr
  exact ⟨seen hsta, seen hstx, seen hsty⟩

end Sys2Proof.Machine
end

section
/-! PROOFS. A step, a run and `reset()` (60_exceptions.md, 70_reset_and_hazards.md): the three things a step can
do, as equations; the invariant; and that what the bus does not show has no influence. -/

namespace Sys2Proof.Machine

/-! ## A step, case by case -/

section
variable {s t : State}

/-- A failing step writes HALT alone (60_exceptions.md R174). -/
theorem takeError_eq (kind : ErrorKind) (s : State) :
    takeError kind s = { s with halt := some ⟨kind, s.pc, loadb s s.pc⟩ } := rfl

theorem step_of_halted {r : ErrorRecord} (h : s.halt = some r) : step s = .next s := by
  rw [step, h, stepHalted]

theorem step_of_illegal (h : s.halt = none) (hop : lookup (loadb s s.pc) = none) :
    step s = .next (takeError .illegalOpcode s) := by
  rw [step, h, (fetchInstr_eq_none s).mpr hop, stepIllegal]

theorem step_of_fetch {i : Instr} (h : s.halt = none) (hf : fetchInstr s = some i) : step s = exec i s := by
  rw [step, h, hf]

theorem stepReport_of_next (h : step s = .next t) : stepReport s = t.halt := by rw [stepReport, h]

theorem step_total (s : State) : ∃ t, step s = .next t := by
  cases hh : s.halt with
  | some r => exact ⟨s, step_of_halted hh⟩
  | none =>
    cases hf : fetchInstr s with
    | none => exact ⟨_, step_of_illegal hh ((fetchInstr_eq_none s).mp hf)⟩
    | some i => rw [step_of_fetch hh hf]; exact exec_total i s

/-- The bytes at PC that decode are those that are fetched. -/
theorem fetchInstr_of_decode {i : Instr} {rest : List Byte}
    (h : decode [loadb s s.pc, loadb s (s.pc + 1), loadb s (s.pc + 2)] = .ok (i, rest)) :
    fetchInstr s = some i := by
  have hpc : s.pc + 1 + 1 = s.pc + 2 := BitVec.add_assoc s.pc 1 1
  rw [fetchInstr_eq, hpc]
  obtain ⟨hl, -⟩ | ⟨make, nn, hl, hbs, rfl⟩ | ⟨make, ll, hh, hl, hbs, rfl⟩ := decode_ok_cases h
  · rw [hl]
  · obtain ⟨rfl, -⟩ := List.cons.inj hbs
    rw [hl]
  · obtain ⟨hll, hbs⟩ := List.cons.inj hbs
    obtain ⟨hhh, -⟩ := List.cons.inj hbs
    rw [hl, ← hll, ← hhh]

theorem step_cart_sp (h : step s = .next t) : t.cart = s.cart ∧ t.sp = s.sp := by
  obtain ⟨r, -, rfl⟩ | ⟨-, -, rfl⟩ | ⟨i, -, -, hexec⟩ := step_cases h
  · exact ⟨rfl, rfl⟩
  · exact ⟨rfl, rfl⟩
  · exact ⟨exec_cart hexec, (exec_registerFrame hexec).sp⟩

end

/-! ## The bus view decides a step -/

section
variable {s t : State}

theorem SameView.fetchInstr_eq (h : SameView s t) : fetchInstr s = fetchInstr t := by
  simp only [Machine.fetchInstr_eq, h.pc, h.bus]

theorem SameView.takeError (h : SameView s t) (kind : ErrorKind) :
    SameView (takeError kind s) (takeError kind t) :=
  { h with halt := by rw [takeError_eq, takeError_eq, h.pc, h.bus] }

end

/-! ## The invariant -/

theorem Flag.writers_eq_nil_iff (f : Flag) : f.writers = [] ↔ f ∈ [Flag.i, .d, .b4, .b5, .v, .n] := by
  cases f <;> decide

/-- Bits 2 to 7 of P, by the flags nothing writes (10_state.md R17). -/
theorem p_and_0xFC_eq_zero_iff (s : State) :
    s.p &&& 0xFC = 0x00 ↔ ∀ f : Flag, f.writers = [] → s.flag f = false := by
  simp only [Flag.writers_eq_nil_iff, flag_eq_bit]
  generalize s.p = p
  revert p
  decide

theorem wf_storeb_ram {s : State} (h : s.ram.wf = true) (ea : Addr) (v : Byte) :
    (storeb s ea v).ram.wf = true := by
  rw [storeb_eq]
  split
  · exact Memory.wf_write h _ v
  · exact h

theorem below_storeb_ram {s : State} (h : s.ram.below Config.ramSize = true) (ea : Addr) (v : Byte) :
    (storeb s ea v).ram.below Config.ramSize = true := by
  rw [storeb_eq]
  split
  · exact Memory.below_write h (ramIndex_lt ea) v
  · exact h

/-- A running machine has no record to be sound. -/
theorem haltSound_of_running {s : State} (h : s.halt = none) : HaltSound s := fun _ hr =>
  nomatch h.symm.trans hr

/-- An instruction of a running machine keeps the invariant. -/
theorem Inv.exec {i : Instr} {s t : State} (hinv : Inv s) (hh : s.halt = none) (h : exec i s = .next t) :
    Inv t where
  ramWf := by
    obtain ⟨-, hram⟩ | ⟨ea, v, -, hram⟩ := exec_ram h <;> rw [hram]
    · exact hinv.ramWf
    · exact wf_storeb_ram hinv.ramWf ea v
  ramBound := by
    obtain ⟨-, hram⟩ | ⟨ea, v, -, hram⟩ := exec_ram h <;> rw [hram]
    · exact hinv.ramBound
    · exact below_storeb_ram hinv.ramBound ea v
  cart := exec_cart h ▸ hinv.cart
  sp := (exec_registerFrame h).sp.trans hinv.sp
  p := (p_and_0xFC_eq_zero_iff t).mpr fun f hf => by
    rw [(exec_registerFrame h).flags f (by rw [hf]; exact List.not_mem_nil)]
    exact (p_and_0xFC_eq_zero_iff s).mp hinv.p f hf
  halt := haltSound_of_running ((exec_halt h).trans hh)

/-- Halting on an illegal opcode keeps the invariant, and makes a sound record. -/
theorem Inv.takeError {s : State} (hinv : Inv s) (hop : lookup (loadb s s.pc) = none) :
    Inv (takeError .illegalOpcode s) :=
  { hinv with
    halt := by
      rintro _ ⟨⟩
      exact ⟨rfl, rfl, rfl, by rw [hop]; rfl⟩ }

/-- `reset()` writes PC alone, on a running machine (70_reset_and_hazards.md R191). -/
theorem hostReset_of_running {s : State} (h : s.halt = none) :
    hostReset s = s.setPc (loadw s Config.resetVector) := by rw [hostReset, h]

theorem hostReset_of_halted {s : State} {r : ErrorRecord} (h : s.halt = some r) : hostReset s = s := by
  rw [hostReset, h]

theorem Inv.hostReset {s : State} (hinv : Inv s) : Inv (hostReset s) := by
  cases hh : s.halt with
  | some r => rwa [hostReset_of_halted hh]
  | none =>
    rw [hostReset_of_running hh]
    exact { hinv with halt := haltSound_of_running hh }

/-! ## Runs -/

theorem run_succ {s t : State} (h : step s = .next t) (k : Nat) :
    Host.Core.run core (k + 1) s = Host.Core.run core k t := by
  have hstep : core.step s = .next t := h
  simp only [Host.Core.run, hstep]

theorem run_of_halted {s : State} {r : ErrorRecord} (h : s.halt = some r) (k : Nat) :
    Host.Core.run core k s = .next s := by
  induction k with
  | zero => rfl
  | succ k ih => rw [run_succ (step_of_halted h), ih]

theorem run_cart {s t : State} {k : Nat} (h : Host.Core.run core k s = .next t) : t.cart = s.cart := by
  induction k generalizing s with
  | zero => cases h; rfl
  | succ k ih =>
    obtain ⟨u, hu⟩ := step_total s
    rw [run_succ hu] at h
    rw [ih h, (step_cart_sp hu).1]

/-- The reset vector lies in PRG, so `reset()` reads the cartridge alone (20_memory.md R43). -/
theorem hostReset_pc_of_running {s : State} (h : s.halt = none) :
    (hostReset s).pc = joinBytes (prgRead s.cart 0xFFFC) (prgRead s.cart 0xFFFD) := by
  rw [hostReset_of_running h, State.setPc_pc, ← loadb_of_0x8000_le s (by decide),
    ← loadb_of_0x8000_le s (by decide)]
  rfl

/-! ## The statements -/

/-- Settles O25: an instruction keeps the invariant, and so does halting. -/
theorem stepKeepsTheInvariant : Obligations.StepKeepsTheInvariant := by
  intro s t hinv h
  obtain ⟨r, -, rfl⟩ | ⟨-, hf, rfl⟩ | ⟨i, hh, -, hexec⟩ := step_cases h
  · exact hinv
  · exact hinv.takeError ((fetchInstr_eq_none s).mp hf)
  · exact hinv.exec hh hexec

/-- Settles O28: machines seen alike are halted alike, fetch alike, and an instruction has one effect on both. -/
theorem stepDependsOnlyOnTheBusView : Obligations.StepDependsOnlyOnTheBusView := by
  intro s t h
  cases hh : s.halt with
  | some r => exact ⟨s, t, step_of_halted hh, step_of_halted (h.halt ▸ hh), h⟩
  | none =>
    have hh' : t.halt = none := h.halt ▸ hh
    cases hf : fetchInstr s with
    | none =>
      have hop := (fetchInstr_eq_none s).mp hf
      have hop' := (fetchInstr_eq_none t).mp (h.fetchInstr_eq ▸ hf)
      exact ⟨_, _, step_of_illegal hh hop, step_of_illegal hh' hop', h.takeError .illegalOpcode⟩
    | some i =>
      obtain ⟨e, hs, ht, -, -⟩ := hasEffect i s t h
      refine ⟨_, _, (step_of_fetch hh hf).trans hs, (step_of_fetch hh' ?_).trans ht, h.apply e⟩
      rw [← h.fetchInstr_eq, hf]

/-- Settles O24: the three things a step can do all answer, and every instruction has an effect. -/
theorem everyStepAnswersANextState : Obligations.EveryStepAnswersANextState := ⟨step_total, exec_total⟩

/-- Settles O27: halting leaves both, and no effect writes either. -/
theorem stepTouchesNeitherCartridgeNorStackPointer :
    Obligations.StepTouchesNeitherCartridgeNorStackPointer := fun _ _ => step_cart_sp

/-- Settles O26: a halted machine keeps its record, an instruction keeps HALT, and a byte that fetches nothing
is one of the illegal ones. -/
theorem haltIsSetOnlyByAnIllegalOpcode : Obligations.HaltIsSetOnlyByAnIllegalOpcode := by
  refine ⟨fun s t h => ?_, fun _ _ _ => exec_halt, fun s nn v => storeThrough_value rfl v⟩
  obtain ⟨r, -, rfl⟩ | ⟨hh, hf, rfl⟩ | ⟨i, -, -, hexec⟩ := step_cases h
  · exact .inl rfl
  · have hop := (fetchInstr_eq_none s).mp hf
    exact .inr ⟨hh, (illegalBytesAreTheListedOnes _).mp (Option.isNone_iff_eq_none.mpr hop), rfl⟩
  · exact .inl (exec_halt hexec)

/-- Settles O23: a halted machine's step is no move, any number of times. -/
theorem haltIsAbsorbing : Obligations.HaltIsAbsorbing := fun _ _ k h =>
  ⟨run_of_halted h k, (stepReport_of_next (step_of_halted h)).trans h, hostReset_of_halted h⟩

/-- Settles O22: a listed byte has no entry, so the step fails. -/
theorem illegalOpcodeHaltsInPlace : Obligations.IllegalOpcodeHaltsInPlace := by
  intro s hh hmem
  have hop := Option.isNone_iff_eq_none.mp ((illegalBytesAreTheListedOnes _).mpr hmem)
  exact ⟨step_of_illegal hh hop, stepReport_of_next (step_of_illegal hh hop)⟩

/-- Settles O21: decoding the three bytes at PC is fetching. -/
theorem stepRunsTheDecodedInstruction : Obligations.StepRunsTheDecodedInstruction := by
  refine fun s => ⟨fun r h => ⟨step_of_halted h, (stepReport_of_next (step_of_halted h)).trans h⟩,
    decode_three_ne_truncated _ _ _, fun op hh hdec => ?_, fun i rest hh hdec =>
    step_of_fetch hh (fetchInstr_of_decode hdec)⟩
  obtain ⟨hop, rfl⟩ := decode_illegal_iff.mp hdec
  exact ⟨step_of_illegal hh hop, stepReport_of_next (step_of_illegal hh hop)⟩

/-- Settles O16: the two branches of `reset()`. -/
theorem resetReloadsOnlyThePc : Obligations.ResetReloadsOnlyThePc := by
  refine fun s => ⟨fun hh => ?_, fun hh => ?_⟩
  · rw [hostReset_of_running hh]
    refine ⟨rfl, ?_⟩
    rw [State.setPc_pc, loadw, joinBytes_toNat, Nat.add_comm, Nat.mul_comm]
    rfl
  · obtain ⟨r, hr⟩ := Option.ne_none_iff_exists'.mp hh
    exact hostReset_of_halted hr

/-- Settles O17: steps keep the cartridge, and a machine that still runs was running. -/
theorem resetVectorNeverChanges : Obligations.ResetVectorNeverChanges := by
  intro s t k h ht
  cases hs : s.halt with
  | some r =>
    rw [run_of_halted hs] at h
    cases h
    rfl
  | none => rw [hostReset_pc_of_running ht, hostReset_pc_of_running hs, run_cart h]

end Sys2Proof.Machine
end

section
/-! PROOFS. The instructions that write registers only: ADC and SBC (41_arith_adc_sbc.md), AND, ORA, EOR
(42_logic_shift.md section 1), the loads (44_load_store.md), the branches (45_control.md section 2), the index
counters (46_incdec.md); and the numbers of addresses and flags they rest on. -/

namespace Sys2Proof.Machine

/-! ## The load families, run -/

section
variable {i : Instr} {opcode : Byte} {s : State}

/-- A load form answers what its update makes of the byte its operand names. -/
theorem runsAs_of_load {after : State → Prop} (o : Operand) {g : Byte → State → State}
    (hop : (encode i).head? = some opcode) (hexec : exec i s = loadThen o g s)
    (hafter : after ((g (loadAt (resolve o s) s) s).advance o.length)) : RunsAs opcode i s after :=
  ⟨hop, _, hexec.trans (loadThen_eq o g s), hafter⟩

/-- A load form that writes A from A and the byte. -/
theorem runsAs_onlyA (o : Operand) (op : Byte → Byte → Byte) (hop : (encode i).head? = some opcode)
    (hexec : exec i s = loadThen o (fun v s => s.setA (op s.a v)) s) :
    RunsAs opcode i s (OnlyA s (op s.a (loadAt (resolve o s) s)) o.length) :=
  runsAs_of_load o hop hexec rfl

theorem runsAs_onlyX (o : Operand) (hop : (encode i).head? = some opcode)
    (hexec : exec i s = loadThen o (fun v s => s.setX v) s) :
    RunsAs opcode i s (OnlyX s (loadAt (resolve o s) s) o.length) :=
  runsAs_of_load o hop hexec rfl

theorem runsAs_onlyY (o : Operand) (hop : (encode i).head? = some opcode)
    (hexec : exec i s = loadThen o (fun v s => s.setY v) s) :
    RunsAs opcode i s (OnlyY s (loadAt (resolve o s) s) o.length) :=
  runsAs_of_load o hop hexec rfl

/-- Carry after it and A are written from one result. -/
theorem flag_c_of_result (s : State) (r : Carried) (n : Nat) :
    (((s.setFlag .c r.carry).setA r.value).advance n).flag .c = r.carry := by
  rw [flag_advance, flag_setA, flag_setFlag, if_pos rfl]

theorem added_addWithCarry (s : State) (v : Byte) (len : Nat) :
    Added s v len (((s.setFlag .c (addWithCarry s.a v (s.flag .c)).carry).setA
      (addWithCarry s.a v (s.flag .c)).value).advance len) where
  frame := rfl
  value := addWithCarry_value _ _ _
  carry := by rw [flag_c_of_result, addWithCarry_carry, decide_eq_true_iff]
  flags := flagsKeptBut_setFlag s .c _

theorem subtracted_subWithCarry (s : State) (v : Byte) (len : Nat) :
    Subtracted s v len (((s.setFlag .c (subWithCarry s.a v (s.flag .c)).carry).setA
      (subWithCarry s.a v (s.flag .c)).value).advance len) where
  frame := rfl
  value := subWithCarry_value _ _ _
  borrow := by rw [flag_c_of_result, subWithCarry_carry, decide_eq_true_iff]
  flags := flagsKeptBut_setFlag s .c _

theorem runsAs_added (o : Operand) (hop : (encode i).head? = some opcode) (hexec : exec i s = runAdc o s) :
    RunsAs opcode i s (Added s (loadAt (resolve o s) s) o.length) :=
  runsAs_of_load o hop hexec (added_addWithCarry s _ _)

theorem runsAs_subtracted (o : Operand) (hop : (encode i).head? = some opcode)
    (hexec : exec i s = runSbc o s) :
    RunsAs opcode i s (Subtracted s (loadAt (resolve o s) s) o.length) :=
  runsAs_of_load o hop hexec (subtracted_subWithCarry s _ _)

end

/-! ## Branches -/

section
variable {i : Instr} {opcode : Byte} {s : State} {offset : Byte}

/-- A branch that wants `f` at `want` is taken exactly where it is. -/
theorem runsAs_branched (f : Flag) (want : Bool) (hop : (encode i).head? = some opcode)
    (hexec : exec i s = branch f want offset s) : RunsAs opcode i s (Branched s offset (s.flag f == want)) := by
  refine ⟨hop, _, hexec.trans (branch_eq f want offset s), rfl, ?_⟩
  rw [State.setPc_pc]
  by_cases htaken : s.flag f = want
  · rw [if_pos htaken, if_pos (beq_iff_eq.mpr htaken)]
    exact (eaAbsoluteIndexed_toNat (past s 2) offset).trans (by rw [past_toNat, Nat.mod_add_mod])
  · rw [if_neg htaken, if_neg (mt beq_iff_eq.mp htaken), past_toNat]

theorem runsAs_branched_of_set (f : Flag) (hop : (encode i).head? = some opcode)
    (hexec : exec i s = branch f true offset s) : RunsAs opcode i s (Branched s offset (s.flag f)) :=
  beq_true (s.flag f) ▸ runsAs_branched f true hop hexec

theorem runsAs_branched_of_clear (f : Flag) (hop : (encode i).head? = some opcode)
    (hexec : exec i s = branch f false offset s) : RunsAs opcode i s (Branched s offset (!s.flag f)) :=
  beq_false (s.flag f) ▸ runsAs_branched f false hop hexec

end

/-- No instruction writes N or V, so both are zero under the invariant (10_state.md R17). -/
theorem Inv.flag_eq_false {s : State} (h : Inv s) {f : Flag} (hf : f.writers = []) : s.flag f = false :=
  (p_and_0xFC_eq_zero_iff s).mp h.p f hf

/-! ## Counting by one in 8 bits -/

theorem add_one_toNat (v : Byte) : (v + 1).toNat = (v.toNat + 1) % 256 := BitVec.toNat_add v 1

theorem sub_one_toNat (v : Byte) : (v - 1).toNat = (v.toNat + 255) % 256 := by
  rw [BitVec.toNat_sub, Nat.add_comm]; rfl

/-! ## Flags and their masks -/

theorem Flag.mask_toNat (f : Flag) : f.mask.toNat = 2 ^ f.bit := by cases f <;> rfl

/-! ## The statements -/

/-- Settles O11: the effective addresses, in numbers. -/
theorem effectiveAddressesAreModular : Obligations.EffectiveAddressesAreModular := fun nn index addr =>
  ⟨eaZeroPage_toNat nn, eaZeroPageIndexed_toNat nn index, eaAbsoluteIndexed_toNat addr index⟩

/-- Settles O12: a flag is its bit of P, and a write of one keeps the others. -/
theorem flagTestIsNonZeroUnderTheMask : Obligations.FlagTestIsNonZeroUnderTheMask := fun s b =>
  ⟨rfl, fun f => ⟨flag_eq_bit s f, f.mask_toNat, rfl, (flag_setFlag s f f b).trans (if_pos rfl),
    flagsKeptBut_setFlag s f b⟩⟩

/-- Settles O30: each form adds the byte of its operand. -/
theorem adcAddsByteAndCarry : Obligations.AdcAddsByteAndCarry := fun _ nn addr =>
  ⟨runsAs_added (.imm nn) rfl rfl, runsAs_added (.zp nn) rfl rfl, runsAs_added (.zpx nn) rfl rfl,
    runsAs_added (.abs addr) rfl rfl, runsAs_added (.absx addr) rfl rfl, runsAs_added (.absy addr) rfl rfl⟩

/-- Settles O31: each form subtracts the byte of its operand. -/
theorem sbcSubtractsByteAndCarry : Obligations.SbcSubtractsByteAndCarry := fun _ nn addr =>
  ⟨runsAs_subtracted (.imm nn) rfl rfl, runsAs_subtracted (.zp nn) rfl rfl,
    runsAs_subtracted (.zpx nn) rfl rfl, runsAs_subtracted (.abs addr) rfl rfl,
    runsAs_subtracted (.absx addr) rfl rfl, runsAs_subtracted (.absy addr) rfl rfl⟩

/-- Settles O32: each form combines A with the byte of its operand. -/
theorem andCombinesByteIntoA : Obligations.AndCombinesByteIntoA := fun _ nn addr =>
  have run := fun {opcode i s} o => @runsAs_onlyA i opcode s o (· &&& ·)
  ⟨run (.imm nn) rfl rfl, run (.zp nn) rfl rfl, run (.zpx nn) rfl rfl, run (.abs addr) rfl rfl,
    run (.absx addr) rfl rfl, run (.absy addr) rfl rfl⟩

/-- Settles O33: each form combines A with the byte of its operand. -/
theorem oraCombinesByteIntoA : Obligations.OraCombinesByteIntoA := fun _ nn addr =>
  have run := fun {opcode i s} o => @runsAs_onlyA i opcode s o (· ||| ·)
  ⟨run (.imm nn) rfl rfl, run (.zp nn) rfl rfl, run (.zpx nn) rfl rfl, run (.abs addr) rfl rfl,
    run (.absx addr) rfl rfl, run (.absy addr) rfl rfl⟩

/-- Settles O34: each form combines A with the byte of its operand. -/
theorem eorCombinesByteIntoA : Obligations.EorCombinesByteIntoA := fun _ nn addr =>
  have run := fun {opcode i s} o => @runsAs_onlyA i opcode s o (· ^^^ ·)
  ⟨run (.imm nn) rfl rfl, run (.zp nn) rfl rfl, run (.zpx nn) rfl rfl, run (.abs addr) rfl rfl,
    run (.absx addr) rfl rfl, run (.absy addr) rfl rfl⟩

/-- Settles O42: each form loads the byte of its operand into A. -/
theorem ldaLoadsA : Obligations.LdaLoadsA := fun _ nn addr =>
  have run := fun {opcode i s} o => @runsAs_onlyA i opcode s o (fun _ v => v)
  ⟨run (.imm nn) rfl rfl, run (.zp nn) rfl rfl, run (.zpx nn) rfl rfl, run (.abs addr) rfl rfl,
    run (.absx addr) rfl rfl, run (.absy addr) rfl rfl⟩

/-- Settles O43: each form loads the byte of its operand into X. -/
theorem ldxLoadsX : Obligations.LdxLoadsX := fun _ nn addr =>
  ⟨runsAs_onlyX (.imm nn) rfl rfl, runsAs_onlyX (.zp nn) rfl rfl, runsAs_onlyX (.zpy nn) rfl rfl,
    runsAs_onlyX (.abs addr) rfl rfl, runsAs_onlyX (.absy addr) rfl rfl⟩

/-- Settles O44: each form loads the byte of its operand into Y. -/
theorem ldyLoadsY : Obligations.LdyLoadsY := fun _ nn addr =>
  ⟨runsAs_onlyY (.imm nn) rfl rfl, runsAs_onlyY (.zp nn) rfl rfl, runsAs_onlyY (.zpx nn) rfl rfl,
    runsAs_onlyY (.abs addr) rfl rfl, runsAs_onlyY (.absx addr) rfl rfl⟩

/-- Settles O49: each is the common branch on its flag. -/
theorem branchesGoForwardOnTheirFlag : Obligations.BranchesGoForwardOnTheirFlag := fun _ _ =>
  ⟨runsAs_branched_of_clear .n rfl rfl, runsAs_branched_of_set .n rfl rfl,
    runsAs_branched_of_clear .v rfl rfl, runsAs_branched_of_set .v rfl rfl,
    runsAs_branched_of_clear .c rfl rfl, runsAs_branched_of_set .c rfl rfl,
    runsAs_branched_of_clear .z rfl rfl, runsAs_branched_of_set .z rfl rfl⟩

/-- Settles O50: the flags tested are zero under the invariant. -/
theorem branchesOnUnwrittenFlagsAreFixed : Obligations.BranchesOnUnwrittenFlagsAreFixed := by
  intro s offset hinv
  obtain ⟨hbpl, hbmi, hbvc, hbvs, -⟩ := branchesGoForwardOnTheirFlag s offset
  have hn : s.flag .n = false := hinv.flag_eq_false rfl
  have hv : s.flag .v = false := hinv.flag_eq_false rfl
  rw [hn] at hbpl hbmi
  rw [hv] at hbvc hbvs
  exact ⟨hbpl, hbvc, hbmi, hbvs⟩

/-- Settles O52: X or Y is written with its sum or difference with one. -/
theorem indexCountsByOneModulo256 : Obligations.IndexCountsByOneModulo256 := fun s =>
  ⟨⟨rfl, _, rfl, rfl, add_one_toNat s.x⟩, ⟨rfl, _, rfl, rfl, add_one_toNat s.y⟩,
    ⟨rfl, _, rfl, rfl, sub_one_toNat s.x⟩, ⟨rfl, _, rfl, rfl, sub_one_toNat s.y⟩⟩

end Sys2Proof.Machine
end

section
/-! PROOFS. The PRG window and bus words (20_memory.md sections A.1 and A.2), the cartridge image (section B),
and construction (70_reset_and_hazards.md section 1). -/

namespace Sys2Proof.Machine

/-! ## The PRG window, in numbers (R35) -/

section
variable {c : Cartridge} (addr : Addr)

/-- One bank is read modulo its size. -/
theorem prgIndex_of_one_bank (h : c.header.prgBanks = 1) : prgIndex c addr = some (addr.toNat % 0x4000) := by
  rw [prgIndex, if_pos h, BitVec.toNat_and, BitVec.toNat_sub]
  have hmask (n : Nat) : n &&& 0x3FFF = n % 0x4000 := Nat.and_two_pow_sub_one_eq_mod n 14
  have hbase : (0x8000 : Addr).toNat = 0x8000 := rfl
  have hmask16 : (0x3FFF : Addr).toNat = 0x3FFF := rfl
  rw [hmask16, hmask, hbase]
  congr 1
  omega

/-- Two banks fill the window. -/
theorem prgIndex_of_two_banks (h : c.header.prgBanks = 2) (hprg : 0x8000 ≤ addr.toNat) :
    prgIndex c addr = some (addr.toNat - 0x8000) := by
  have hne : c.header.prgBanks ≠ 1 := by rw [h]; decide
  have hle : (0x8000 : Addr) ≤ addr := BitVec.le_def.mpr hprg
  rw [prgIndex, if_neg hne, if_pos h, BitVec.toNat_sub_of_le hle]
  rfl

theorem prgRead_of_prgIndex {i : Nat} (h : prgIndex c addr = some i) : prgRead c addr = c.prg.read i := by
  rw [prgRead, h]

end

/-- Settles O9: the index an address of the window names, under one bank and under two. -/
theorem prgIsMirroredOrLinear : Obligations.PrgIsMirroredOrLinear := by
  intro s i
  have window : ∀ {n k : Nat}, n < 0x10000 → 0x8000 ≤ n →
      prgIndex s.cart (BitVec.ofNat 16 n) = some k → loadb s (BitVec.ofNat 16 n) = s.cart.prg.read k := by
    intro n k hn hprg hk
    rw [loadb_of_0x8000_le s (by rwa [BitVec.toNat_ofNat, Nat.mod_eq_of_lt hn]), prgRead_of_prgIndex _ hk]
  refine ⟨fun hone hi => ⟨window (by omega) (by omega) ?_, window (by omega) (by omega) ?_⟩,
    fun htwo hi => window (by omega) (by omega) ?_⟩
  · rw [prgIndex_of_one_bank _ hone, BitVec.toNat_ofNat]
    congr 1
    omega
  · rw [prgIndex_of_one_bank _ hone, BitVec.toNat_ofNat]
    congr 1
    omega
  · have hn : (BitVec.ofNat 16 (0x8000 + i)).toNat = 0x8000 + i := Nat.mod_eq_of_lt (by omega)
    rw [prgIndex_of_two_banks _ htwo (by omega), hn, Nat.add_sub_cancel_left]

/-! ## Words on the bus (R38 to R40) -/

/-- The next address, modulo 65536 (92_eei_decisions.md D8). -/
theorem add_one_eq_ofNat (addr : Addr) : addr + 1 = BitVec.ofNat 16 ((addr.toNat + 1) % 65536) := by
  apply BitVec.eq_of_toNat_eq
  rw [BitVec.toNat_ofNat, Nat.mod_mod]
  exact BitVec.toNat_add addr 1

theorem loadw_toNat (s : State) (addr : Addr) :
    (loadw s addr).toNat = (loadb s addr).toNat + 256 * (loadb s (addr + 1)).toNat := by
  rw [loadw, joinBytes_toNat, Nat.add_comm, Nat.mul_comm]

/-- A word stored where both of its addresses are in RAM is read back. -/
theorem loadw_storew (s : State) {addr : Addr} (w : Addr) (h : addr.toNat < 0x1FFF) :
    loadw (storew s addr w) addr = w := by
  have hnext : (addr + 1).toNat = addr.toNat + 1 := by
    rw [add_one_eq_ofNat, BitVec.toNat_ofNat]
    omega
  have hlow : SameRamByte addr addr := ⟨by omega, by omega, rfl⟩
  have hhigh : SameRamByte (addr + 1) (addr + 1) := ⟨by omega, by omega, rfl⟩
  have hother : ¬ SameRamByte (addr + 1) addr := by
    rintro ⟨-, -, hmod⟩
    rw [hnext] at hmod
    omega
  rw [loadw, storew, loadb_storeb_sameRamByte, if_neg hother, loadb_storeb_sameRamByte, if_pos hlow,
    loadb_storeb_sameRamByte, if_pos hhigh, joinBytes_lo_hi]

theorem storew_eq_with_ram (s : State) (addr w : Addr) :
    storew s addr w = { s with ram := (storew s addr w).ram } := by
  rw [storew, storeb_eq_with_ram (storeb s addr _)]
  simp only [storeb_a, storeb_x, storeb_y, storeb_sp, storeb_p, storeb_pc, storeb_halt, storeb_cart]

/-- Settles O10: a word is its two bytes, for loads, for read-back and for what a store leaves. -/
theorem wordsAreLittleEndian : Obligations.WordsAreLittleEndian := fun s addr w =>
  ⟨by rw [loadw_toNat, add_one_eq_ofNat], loadw_storew s w, storew_eq_with_ram s addr w⟩

/-! ## The header of an image -/

section
variable {img : List Byte} {header : Header}

/-- The header is the first 16 bytes, with each field at its place (R50). -/
theorem ofImage_eq_some (h : Header.ofImage img = some header) :
    header.bytes = img.take 16 ∧ header.magic.toList = img.take 4 ∧ header.prgBanks = img.getD 4 0 ∧
      header.chrBanks = img.getD 5 0 ∧ header.flags6 = img.getD 6 0 := by
  unfold Header.ofImage at h
  split at h
  · cases h
    exact ⟨rfl, rfl, rfl, rfl, rfl⟩
  · cases h

theorem magic_eq_iff (h : Header.ofImage img = some header) :
    header.magic = Config.magic ↔ img.take 4 = [0x4E, 0x45, 0x53, 0x1A] := by
  obtain ⟨-, hmagic, -⟩ := ofImage_eq_some h
  rw [← hmagic, ← Vector.toList_inj]
  rfl

theorem and_0x04_ne_zero_iff (b : Byte) : b &&& 0x04 ≠ 0 ↔ b.getLsbD 2 = true := by
  revert b
  decide

/-- The lengths the header gives, by the image's bytes (R51). -/
theorem lengths_of_ofImage (h : Header.ofImage img = some header) :
    header.trainerLength = (if (img.getD 6 0).getLsbD 2 then 512 else 0) ∧
      header.prgLength = (img.getD 4 0).toNat * 16384 ∧ header.chrLength = (img.getD 5 0).toNat * 8192 := by
  obtain ⟨-, -, hprg, hchr, hflags⟩ := ofImage_eq_some h
  rw [← hprg, ← hchr, ← hflags]
  refine ⟨?_, rfl, rfl⟩
  simp only [Header.trainerLength, and_0x04_ne_zero_iff]
  rfl

end

/-! ## Parsing -/

/-- An image parses exactly where it has a header with the magic and the length the header says. -/
theorem parse_ok_iff (img : List Byte) : (∃ c, parse img = .ok c) ↔
    ∃ header, Header.ofImage img = some header ∧ header.magic = Config.magic ∧
      Config.headerSize + header.trainerLength + header.prgLength + header.chrLength ≤ img.length := by
  simp only [parse_eq_ok]
  constructor
  · rintro ⟨c, header, hh, hmagic, hlen, -⟩
    exact ⟨header, hh, hmagic, hlen⟩
  · rintro ⟨header, hh, hmagic, hlen⟩
    exact ⟨_, header, hh, hmagic, hlen, rfl⟩

theorem parse_error_iff (img : List Byte) : (∃ e, parse img = .error e) ↔ ¬ ∃ c, parse img = .ok c := by
  cases parse img <;> simp

/-- Settles O13: the checks of the parser, in the image's bytes. -/
theorem parserFailsExactlyOnBadOrShortImages : Obligations.ParserFailsExactlyOnBadOrShortImages := by
  intro img
  rw [parse_error_iff, parse_ok_iff]
  cases hh : Header.ofImage img with
  | none =>
    have hshort : img.length < 16 := by
      have := (ofImage_isSome img).not
      rw [hh] at this
      simpa using this
    simp [hshort]
  | some header =>
    have hlong : ¬ img.length < 16 := by
      have := (ofImage_isSome img).mp (by rw [hh]; rfl)
      omega
    obtain ⟨htrainer, hprg, hchr⟩ := lengths_of_ofImage hh
    simp only [Option.some.injEq, exists_eq_left', magic_eq_iff hh, htrainer, hprg, hchr, hlong, false_or,
      not_and_or, not_le]
    rfl

/-- A byte of a slice. -/
theorem getD_take_drop {α : Type} (l : List α) (start : Nat) {n k : Nat} (hk : k < n) (d : α) :
    ((l.drop start).take n).getD k d = l.getD (start + k) d := by
  simp only [List.getD_eq_getElem?_getD, List.getElem?_take, if_pos hk, List.getElem?_drop]

/-- Settles O14: PRG and CHR are slices of the image, read byte by byte. -/
theorem parsedCartridgeHoldsTheImage : Obligations.ParsedCartridgeHoldsTheImage := by
  intro img c h
  obtain ⟨header, hh, -, -, rfl⟩ := parse_eq_ok.mp h
  obtain ⟨htrainer, hprg, hchr⟩ := lengths_of_ofImage hh
  obtain ⟨hbytes, -⟩ := ofImage_eq_some hh
  rw [← htrainer, ← hprg, ← hchr]
  refine ⟨hbytes, fun k hk => ?_, fun k hk => ?_⟩
  · rw [Memory.read_ofBytes, getD_take_drop _ _ hk]; rfl
  · rw [Memory.read_ofBytes, getD_take_drop _ _ hk]; rfl

/-! ## Construction -/

section
variable {img : List Byte} {ramInit : Vector Byte 2048} {c : Cartridge}

theorem newCpu_of_ok (h : parse img = .ok c) (hb : c.header.prgBanks = 1 ∨ c.header.prgBanks = 2) :
    newCpu img ramInit = .ready (constructed c ramInit) := by
  rw [newCpu, h]
  exact if_pos hb

theorem newCpu_of_other_banks (h : parse img = .ok c) (hb : ¬ (c.header.prgBanks = 1 ∨ c.header.prgBanks = 2)) :
    newCpu img ramInit = .refused c.header.prgBanks := by
  rw [newCpu, h]
  exact if_neg hb

theorem newCpu_of_error {e : FormatError} (h : parse img = .error e) :
    newCpu img ramInit = .formatError e := by
  rw [newCpu, h]

/-- A CPU came from an image that parses with one or two banks. -/
theorem newCpu_ready {s : State} (h : newCpu img ramInit = .ready s) :
    ∃ c, parse img = .ok c ∧ (c.header.prgBanks = 1 ∨ c.header.prgBanks = 2) ∧ s = constructed c ramInit := by
  cases hp : parse img with
  | error e =>
    rw [newCpu_of_error hp] at h
    cases h
  | ok c =>
    by_cases hb : c.header.prgBanks = 1 ∨ c.header.prgBanks = 2
    · rw [newCpu_of_ok hp hb] at h
      exact ⟨c, rfl, hb, (Launch.ready.inj h).symm⟩
    · rw [newCpu_of_other_banks hp hb] at h
      cases h

end

theorem constructed_ram_read (c : Cartridge) (ramInit : Vector Byte 2048) (k : Nat) (h : k < 2048) :
    (constructed c ramInit).ram.read k = ramInit[k] := by
  rw [constructed, Memory.read_ofBytes, List.getD_eq_getElem _ _ (by rwa [Vector.length_toList]),
    Vector.getElem_toList]

/-- Settles O15: the three answers of `new`. -/
theorem newZeroesRegistersAndTakesRamInit : Obligations.NewZeroesRegistersAndTakesRamInit := fun _ ramInit =>
  ⟨fun c h hb => ⟨constructed c ramInit, newCpu_of_ok h hb, rfl, constructed_ram_read c ramInit⟩,
    fun _ h h1 h2 => newCpu_of_other_banks h (not_or.mpr ⟨h1, h2⟩), fun _ => newCpu_of_error⟩

/-- A memory made of at most `size` bytes lies below it. -/
theorem below_ofBytes_of_length_le {bs : List Byte} {size : Nat} (h : bs.length ≤ size) :
    (Memory.ofBytes 0 bs).below size = true :=
  Memory.below_ofBytes_from 0 bs size (by rwa [Nat.zero_add])

/-- A cartridge that parses with one or two banks is one the invariant accepts. -/
theorem cartWf_of_parse {img : List Byte} {c : Cartridge} (h : parse img = .ok c)
    (hb : c.header.prgBanks = 1 ∨ c.header.prgBanks = 2) : CartWf c := by
  obtain ⟨header, -, hmagic, -, rfl⟩ := parse_eq_ok.mp h
  exact {
    magic := hmagic, banks := hb
    prgWf := Memory.wf_ofBytes _, prgBound := below_ofBytes_of_length_le (List.length_take_le _ _)
    chrWf := Memory.wf_ofBytes _, chrBound := below_ofBytes_of_length_le (List.length_take_le _ _) }

theorem inv_constructed {c : Cartridge} (h : CartWf c) (ramInit : Vector Byte 2048) :
    Inv (constructed c ramInit) where
  ramWf := Memory.wf_ofBytes _
  ramBound := below_ofBytes_of_length_le Vector.length_toList.le
  cart := h
  sp := rfl
  p := BitVec.zero_and
  halt := haltSound_of_running rfl

/-- Settles O20: `new` gives only what it has parsed, and `reset()` moves only PC. -/
theorem newCpuMeetsTheInvariant : Obligations.NewCpuMeetsTheInvariant := by
  refine ⟨fun img ramInit s h => ?_, fun s => Inv.hostReset⟩
  obtain ⟨c, hc, hb, rfl⟩ := newCpu_ready h
  exact inv_constructed (cartWf_of_parse hc hb) ramInit

/-! ## The state after reset -/

/-- The header of the blank image, then its bank of zero bytes (log entry 1). -/
theorem parse_blank : parse
    ([0x4E, 0x45, 0x53, 0x1A, 0x01, 0x00, 0x00, 0x00, 0x00, 0x00, 0x00, 0x00, 0x00, 0x00, 0x00, 0x00]
      ++ List.replicate 16384 0x00) = .ok Cartridge.blank := by
  refine parse_eq_ok.mpr ⟨Header.blank, rfl, rfl, ?_, ?_⟩
  · rw [List.length_append, List.length_replicate]
    decide
  · have hprg : Memory.ofBytes 0 ((List.replicate 16384 (0x00 : Byte)).take 16384) = [] := by
      rw [List.take_replicate, Nat.min_self]
      exact Memory.ofBytes_replicate 0 16384
    exact (congrArg (Cartridge.mk Header.blank · []) hprg).symm

/-- Settles O18: RAM and PRG are zero bytes, which canonical memories leave out. -/
theorem resetStateIsNewThenResetOnTheBlankImage : Obligations.ResetStateIsNewThenResetOnTheBlankImage := by
  refine ⟨_, newCpu_of_ok parse_blank (.inl rfl), ?_⟩
  have hram : Memory.ofBytes 0 Config.ramInit.toList = [] := Memory.ofBytes_replicate 0 2048
  rw [hostReset_of_running rfl, constructed, hram]
  rfl

/-- Settles O19: `State.reset` is a CPU that `new` gave, reset. -/
theorem resetStateMeetsTheInvariant : Obligations.ResetStateMeetsTheInvariant := by
  obtain ⟨s, hnew, hreset⟩ := resetStateIsNewThenResetOnTheBlankImage
  obtain ⟨hready, hkeeps⟩ := newCpuMeetsTheInvariant
  have hinv := hkeeps s (hready _ _ s hnew)
  rwa [hreset] at hinv

end Sys2Proof.Machine
end
